-- ==== Sys2Proof/Word.lean ====
section
/-! DEFINITION. The unit of every opcode, parameter, response and status value: one byte of 8 bits
(spec/00_scope.md R8, R9). -/

namespace Sys2Proof

/-- One byte. Bits are numbered 7 (most significant) down to 0 and every value is unsigned (R9). -/
abbrev Byte := BitVec 8

end Sys2Proof
end

