-- ==== Sys2Proof/Config.lean ====
section
/-! DEFINITION. The named parameters of spec/00_scope.md R7 that the spec leaves OPEN, as constants
without a value, and the types they range over. They are fixed before reset, constant for the run, and
no state (spec/10_state.md R41). The parameters to which the spec gives a default value stand with that
value where they are used: OPCODE_MAP in Decode.lean, STATUS_ENCODING in Machine/Flags.lean, CAUSE_CODE in
Machine/Ops.lean, D_GETID_HEAD and D_INIT_SECOND in Machine/Operands.lean. -/

namespace Sys2Proof

/-- The thirteen commands under the document's names (spec/30_encoding.md R73): the domain of
OPCODE_MAP. -/
inductive Command where
  | getBiosDate
  | getStat
  | getId
  | init
  | setLoc
  | seekData
  | setMode
  | readWithRetry
  | stopRead
  | demute
  | getTrackCount
  | getTrackPosition
  | play
  deriving DecidableEq, Repr

/-- A disc position `(minute, second, frame)`, each one 8-bit value (spec/10_state.md R25,
spec/20_memory.md R51). -/
structure Msf where
  minute : Byte
  second : Byte
  frame  : Byte
  deriving DecidableEq, Repr

/-- The Disc capability, as the answers to its queries `is_present()` and `track_count()`
(spec/10_state.md R21). The third query is `Disc.linearAddress`. The queries are pure and constant (D25),
so the answers are the capability (log 7). -/
structure Disc where
  isPresent  : Bool
  trackCount : Nat
  deriving DecidableEq, Repr

/-- The disc mounted for the run, DISC0 (R7, D25). OPEN: no claim may depend on which (log 6). -/
opaque Config.disc0 : Option Disc

/-- The zero-based linear sector address of a position on a disc (spec/20_memory.md R51). The spec gives no
formula and no rule calls it (spec/91_not_in_source.md N5), so it is a function without a body (log 7). -/
opaque Config.msfToLinear : Disc → Msf → Nat

/-- The Disc capability's query MSF-to-linear-address (R21). -/
def Disc.linearAddress (d : Disc) (p : Msf) : Nat := Config.msfToLinear d p

/-- D_FIRST, the default first-response delay in cycles (R7). OPEN (log 3). -/
opaque Config.dFirst : Nat

/-- D_SECOND, the delay of get-id's second packet (R7). OPEN (log 3). -/
opaque Config.dSecond : Nat

/-- D_SEEK, the delay of seek-data's second packet (R7). OPEN (log 3). -/
opaque Config.dSeek : Nat

/-- D_READ, the delay of read-with-retry's second packet (R7). OPEN (log 3). -/
opaque Config.dRead : Nat

/-- D_PAUSE, the delay of stop-read's second packet (R7). OPEN (log 3). -/
opaque Config.dPause : Nat

/-- FIRMWARE_ID, the fixed 4-byte firmware identifier (R7, spec/40_status_and_codec.md R110). OPEN (log 5). -/
opaque Config.firmwareId : Vector Byte 4

end Sys2Proof
end

