-- ==== Sys2Proof/Syntax.lean ====
section
/-! DEFINITION. Commands as syntax: the raw command that one Issue delivers, and the decoded command
(spec/30_encoding.md R70 to R73), one constructor for each row of spec/opcode_table.json. -/

namespace Sys2Proof

/-- A command as the intake delivers it: one opcode byte and a finite sequence of byte parameters, already
decoded upstream (R70, R71). Its length need not be right. -/
structure RawCommand where
  op     : Byte
  params : List Byte
  deriving DecidableEq, Repr

/-- A decoded command (R73), under the mnemonics of spec/opcode_table.json. Every operand is one value in
0..255, stored as given and never range-checked (R71). -/
inductive Instr where
  /-- get-stat, 0x01, format C0 (R131) -/
  | getstat
  /-- set-loc, 0x02, format C3 (R161) -/
  | setloc (minute second frame : Byte)
  /-- play, 0x03, format C0 (R202) -/
  | play
  /-- read-with-retry, 0x06, format C0 (R164) -/
  | readN
  /-- stop-read, 0x09, format C0 (R165) -/
  | pause
  /-- init, 0x0A, format C0 (R160) -/
  | init
  /-- demute, 0x0C, format C0 (R166) -/
  | demute
  /-- set-mode, 0x0E, format C1 (R163) -/
  | setmode (mode : Byte)
  /-- get-track-count, 0x13, format C0 (R200) -/
  | getTN
  /-- get-track-position, 0x14, format C1; the track is ignored (R201) -/
  | getTD (track : Byte)
  /-- seek-data, 0x15, format C0 (R162) -/
  | seekL
  /-- get-bios-date, 0x19 with sub-function 0x20, format CT (R130). The decoded command has no operand: the
  sub-function byte only selects it (R74, R76). -/
  | test20
  /-- get-id, 0x1A, format C0 (R132) -/
  | getID
  deriving DecidableEq, Repr

end Sys2Proof
end

