-- ==== Sys2Proof/Decode.lean ====
section
/-! DEFINITION. Decoding a raw command (spec/30_encoding.md R73 to R78), total on every opcode byte and every
parameter sequence, rejecting by name; the encoder written from the same table; and the layout of a command's
bytes as one table word. -/

namespace Sys2Proof

/-- The fault outcomes an Issue returns to its issuer, with their recorded values (spec/60_exceptions.md R260).
The first two are decode's rejections. An Issue that raises one leaves `S` and `Q` as they were (R265); the model
records it and the machine goes on (R266), so none of them stops a run (log 12). -/
inductive IssueFault where
  /-- Raised by `decode`: an opcode outside OPCODE_MAP, or the Test opcode with a sub-function other than 0x20
  (R261). -/
  | unsupportedCommand (op : Byte)
  /-- Raised by `decode`: a parameter count other than the command's arity (R262). -/
  | malformedParameters (op : Byte) (count : Nat)
  /-- Raised by get-track-count with no mounted disc (R263). -/
  | noDiscMounted (op : Byte)
  /-- Raised by `bcd` on an input above 99, which only get-track-count can reach (R264). -/
  | bcdOutOfRange (n : Nat)
  deriving DecidableEq, Repr

/-- The default OPCODE_MAP (R73). PRESUMED: the byte values are the spec's general knowledge, not the
document's (D3, D4; log 8). -/
def opcodeMap : Command → Byte
  | .getStat          => 0x01
  | .setLoc           => 0x02
  | .play             => 0x03
  | .readWithRetry    => 0x06
  | .stopRead         => 0x09
  | .init             => 0x0A
  | .demute           => 0x0C
  | .setMode          => 0x0E
  | .getTrackCount    => 0x13
  | .getTrackPosition => 0x14
  | .seekData         => 0x15
  | .getBiosDate      => 0x19
  | .getId            => 0x1A

/-- The fixed parameter count of each command (R73, R75). -/
def arity : Command → Nat
  | .setLoc           => 3
  | .setMode          => 1
  | .getTrackPosition => 1
  | .getBiosDate      => 1
  | .getStat          => 0
  | .play             => 0
  | .readWithRetry    => 0
  | .stopRead         => 0
  | .init             => 0
  | .demute           => 0
  | .getTrackCount    => 0
  | .seekData         => 0
  | .getId            => 0

/-- The sub-function byte of the Test opcode that selects get-bios-date (R74). -/
def biosDateSub : Byte := 0x20

/-- Every command, once. -/
def allCommands : List Command :=
  [.getStat, .setLoc, .play, .readWithRetry, .stopRead, .init, .demute, .setMode, .getTrackCount,
    .getTrackPosition, .seekData, .getBiosDate, .getId]

/-- `OPCODE_MAP^-1(op)` for a map `m`, none where `op` is outside its range (R76). -/
def commandOf (m : Command → Byte) (op : Byte) : Option Command :=
  allCommands.find? fun c => m c == op

/-- Format C0: no parameter (R72). -/
def formatC0 (op : Byte) (i : Instr) : List Byte → Except IssueFault Instr
  | [] => .ok i
  | ps => .error (.malformedParameters op ps.length)

/-- Formats C1 and CT: one parameter byte (R72). -/
def formatC1 (op : Byte) (f : Byte → Except IssueFault Instr) : List Byte → Except IssueFault Instr
  | [p0] => f p0
  | ps => .error (.malformedParameters op ps.length)

/-- Format C3: three parameter bytes (R72). -/
def formatC3 (op : Byte) (f : Byte → Byte → Byte → Instr) : List Byte → Except IssueFault Instr
  | [p0, p1, p2] => .ok (f p0 p1 p2)
  | ps => .error (.malformedParameters op ps.length)

/-- The Test opcode's sub-function: 0x20 is get-bios-date, every other value is unsupported (R74). -/
def testSub (op sub : Byte) : Except IssueFault Instr :=
  if sub = biosDateSub then .ok .test20 else .error (.unsupportedCommand op)

/-- The command with its parameters, once the opcode has selected it, by the command's format (R72, R76). -/
def applyParams (c : Command) (op : Byte) (ps : List Byte) : Except IssueFault Instr :=
  match c with
  | .getStat          => formatC0 op .getstat ps
  | .setLoc           => formatC3 op .setloc ps
  | .play             => formatC0 op .play ps
  | .readWithRetry    => formatC0 op .readN ps
  | .stopRead         => formatC0 op .pause ps
  | .init             => formatC0 op .init ps
  | .demute           => formatC0 op .demute ps
  | .setMode          => formatC1 op (fun p0 => .ok (.setmode p0)) ps
  | .getTrackCount    => formatC0 op .getTN ps
  | .getTrackPosition => formatC1 op (fun p0 => .ok (.getTD p0)) ps
  | .seekData         => formatC0 op .seekL ps
  | .getBiosDate      => formatC1 op (testSub op) ps
  | .getId            => formatC0 op .getID ps

/-- The decode function of R76 for an OPCODE_MAP `m`: the opcode is checked first, then the arity, then Test's
sub-function (D28). It reads no state. -/
def decodeWith (m : Command → Byte) (r : RawCommand) : Except IssueFault Instr :=
  match commandOf m r.op with
  | none => .error (.unsupportedCommand r.op)
  | some c =>
    if r.params.length = arity c then applyParams c r.op r.params
    else .error (.malformedParameters r.op r.params.length)

/-- Decoding under the default map (R73, R76). -/
def decode (r : RawCommand) : Except IssueFault Instr := decodeWith opcodeMap r

/-- The command a decoded command is an issue of (R73). -/
def Instr.command : Instr → Command
  | .getstat      => .getStat
  | .setloc _ _ _ => .setLoc
  | .play         => .play
  | .readN        => .readWithRetry
  | .pause        => .stopRead
  | .init         => .init
  | .demute       => .demute
  | .setmode _    => .setMode
  | .getTN        => .getTrackCount
  | .getTD _      => .getTrackPosition
  | .seekL        => .seekData
  | .test20       => .getBiosDate
  | .getID        => .getId

/-- The parameter bytes of a decoded command in intake order (R72). -/
def Instr.params : Instr → List Byte
  | .setloc p0 p1 p2 => [p0, p1, p2]
  | .setmode p0      => [p0]
  | .getTD p0        => [p0]
  | .test20          => [biosDateSub]
  | .getstat         => []
  | .play            => []
  | .readN           => []
  | .pause           => []
  | .init            => []
  | .demute          => []
  | .getTN           => []
  | .seekL           => []
  | .getID           => []

/-- The raw command of a decoded command, for an OPCODE_MAP `m` (R72, R73). -/
def encodeWith (m : Command → Byte) (i : Instr) : RawCommand :=
  { op := m i.command, params := i.params }

/-- Encoding under the default map (R73). -/
def encode (i : Instr) : RawCommand := encodeWith opcodeMap i

/-- Byte `k` of a table word: bits `8k+7 .. 8k`, so byte 0 is the opcode and byte `k+1` is parameter `pk`
(DESIGN CHOICE, log 22). -/
def wordByte (w k : Nat) : Byte := BitVec.ofNat 8 (w >>> (8 * k))

/-- How many parameter bytes a table word of `nbits` bits carries: as many as it has bytes after the opcode,
and at least the opcode's arity, the missing ones being zero bytes (R72: length 1 + arity(op); log 22). -/
def wordParamCount (nbits : Nat) (op : Byte) : Nat :=
  match commandOf opcodeMap op with
  | none   => nbits / 8 - 1
  | some c => max (nbits / 8 - 1) (arity c)

/-- The raw command whose bytes are the `nbits` low bits of `w` (log 22). -/
def rawOfWord (nbits w : Nat) : RawCommand :=
  { op := wordByte (w % 2 ^ nbits) 0
    params := (List.range (wordParamCount nbits (wordByte (w % 2 ^ nbits) 0))).map
      fun k => wordByte (w % 2 ^ nbits) (k + 1) }

/-- The instruction the decoder reads from a table word, none where it refuses. -/
def decodeTableWord (nbits w : Nat) : Option Instr :=
  match decode (rawOfWord nbits w) with
  | .ok i    => some i
  | .error _ => none

end Sys2Proof
end

