-- ==== Sys2Proof/Machine/State.lean ====
section
/-! DEFINITION. The state the spec gives the block (spec/10_state.md): the drive-state register file `S`, the pending
packet chain queue `Q`, the observer state, and the environment's pending steps; and the state after reset. There is no
memory, no program counter and no stored flag (spec/20_memory.md R50, spec/10_state.md R36, R37). -/

namespace Sys2Proof.Machine

/-- `motor_state` (R22). -/
inductive MotorState where
  | off
  | on
  deriving DecidableEq, Repr

/-- `drive_state`, the coarse activity mode. There is no Play value (R23). -/
inductive DriveActivity where
  | idle
  | seek
  | read
  deriving DecidableEq, Repr

/-- The drive-state register file `S`: exactly the nine fields of R20, R35. -/
structure DriveRegs where
  /-- R21; written by nothing -/
  disc         : Option Disc
  /-- R22 -/
  motorState   : MotorState
  /-- R23 -/
  driveState   : DriveActivity
  /-- R24; opaque and inert -/
  driveMode    : Byte
  /-- R25 -/
  seekTarget   : Msf
  /-- R26 -/
  seekComplete : Bool
  /-- R27; unbounded (D32) -/
  readOffset   : Nat
  /-- R28 -/
  readEnabled  : Bool
  /-- R29; no capacity bound (D32) -/
  dataQueue    : List Byte
  deriving DecidableEq, Repr

/-- The five interrupt causes (spec/60_exceptions.md R268). DataEnd is reserved and never produced (R269). -/
inductive Cause where
  | acknowledge
  | dataReady
  | complete
  | dataEnd
  | error
  deriving DecidableEq, Repr

/-- A response packet (R32). `cycles` is its delay, and while it is the head of `Q` the cycles that remain (R33). -/
structure Packet where
  cause    : Cause
  response : List Byte
  cycles   : Nat
  /-- the originating opcode, retained for diagnostics and tracing (R32, R276) -/
  command  : Byte
  deriving DecidableEq, Repr

/-- A delivered event `(t, cause, bytes)` (R39). -/
structure Delivery where
  time  : Nat
  cause : Cause
  bytes : List Byte
  deriving DecidableEq, Repr

/-- A step of the environment: one Issue or one Tick (spec/20_memory.md R57). -/
inductive Stimulus where
  | issue (r : RawCommand)
  | tick
  deriving DecidableEq, Repr

/-- The machine's state. -/
structure State where
  /-- the drive-state register file `S` (R20) -/
  drive  : DriveRegs
  /-- the pending packet chain queue `Q`, head first (R33) -/
  queue  : List Packet
  /-- observer state `Out`, oldest first (R39) -/
  out    : List Delivery
  /-- observer state `now`: Ticks since reset (R39) -/
  now    : Nat
  /-- observer state `Faults`, oldest first, never cleared (R39, R266) -/
  faults : List IssueFault
  /-- the model's own field: the environment's pending steps, next first (R57, R239; log 1) -/
  input  : List Stimulus
  deriving DecidableEq, Repr

/-- Reasons a step stops with a fault: none. The four fault kinds of R260 do not stop the block: each is an outcome
of its Issue, recorded in `faults`, after which the block goes on (R265, R266, R305; log 12). Nobody raises a stop; this is
safe, because the spec gives every step an effect (R274, R278). -/
inductive Fault where
  deriving DecidableEq, Repr

/-- Reasons a step has no meaning. -/
inductive Refusal where
  /-- Raised by `exec` for an instruction without a meaning; safe. Every instruction has one, so nothing raises it. -/
  | notModelled (mnemonic : String)
  deriving DecidableEq, Repr

/-- The reset values of `S` (R40). Motor and activity are the source's (R22, R23), `disc` is the launch parameter
DISC0; the other six are DESIGN CHOICE (the spec's decision D24; log 11). -/
def DriveRegs.reset : DriveRegs :=
  { disc         := Config.disc0
    motorState   := .off
    driveState   := .idle
    driveMode    := 0x00
    seekTarget   := { minute := 0, second := 0, frame := 0 }
    seekComplete := false
    readOffset   := 0
    readEnabled  := false
    dataQueue    := [] }

/-- The machine right after reset, the creation of the block's one object (R40, spec/70_reset_and_hazards.md R300). `Q` and
the observer state are empty (D24); no step of the environment is pending (log 1). -/
def State.reset : State :=
  { drive := DriveRegs.reset, queue := [], out := [], now := 0, faults := [], input := [] }

end Sys2Proof.Machine
end

