-- ==== Sys2Proof/Machine/Flags.lean ====
section
/-! DEFINITION. The three encodings a model takes as parameters (spec/00_scope.md R7): OPCODE_MAP, STATUS_ENCODING and CAUSE_CODE,
with the spec's defaults for the last two (the first default is `opcodeMap` of Decode.lean); and the status byte, the block's one flag
computation, computed from the live drive state and never stored (spec/10_state.md R37, spec/40_status_and_codec.md R100 to R103). -/

namespace Sys2Proof.Machine

/-- The encodings of a run, constant for it and no state (R7, spec/10_state.md R41). Every handler, the decoder and the delivery take
them as an argument; the machine `step` runs at `Encodings.default`. -/
structure Encodings where
  /-- OPCODE_MAP: command to byte (spec/30_encoding.md R73) -/
  opcode : Command → Byte
  /-- STATUS_ENCODING: state to byte (spec/40_status_and_codec.md R100) -/
  status : DriveRegs → Byte
  /-- CAUSE_CODE: cause to small number (spec/60_exceptions.md R268) -/
  cause : Cause → Nat

/-- What R7 asks of the encodings: OPCODE_MAP and CAUSE_CODE are injective. -/
structure Encodings.Legal (E : Encodings) : Prop where
  opcode : Function.Injective E.opcode
  cause : Function.Injective E.cause

/-- The default STATUS_ENCODING: bit 1 motor on, bit 5 reading, bit 6 seeking, every other bit 0 (R100, R101). PRESUMED: the
bit positions are the spec's general knowledge (D8; log 10). -/
def statusEncoding (motor : MotorState) (activity : DriveActivity) : Byte :=
  (if motor = .on then 0x02 else 0x00)
    ||| (if activity = .read then 0x20 else 0x00)
    ||| (if activity = .seek then 0x40 else 0x00)

/-- `status(S)` under the default STATUS_ENCODING (R100). -/
def status (S : DriveRegs) : Byte := statusEncoding S.motorState S.driveState

/-- `status(S)` under the STATUS_ENCODING of `E` (R100). A handler evaluates it at the point its rule states and keeps the byte
(R103). -/
def statusWith (E : Encodings) (S : DriveRegs) : Byte := E.status S

/-- The default CAUSE_CODE, the wire value of each cause (R268). PRESUMED: the numbers are the spec's general knowledge
(D7; log 9). -/
def causeCode : Cause → Nat
  | .dataReady   => 1
  | .complete    => 2
  | .acknowledge => 3
  | .dataEnd     => 4
  | .error       => 5

/-- The spec's default encodings (R7; log 8, log 9, log 10). -/
def Encodings.default : Encodings := { opcode := opcodeMap, status := Sys2Proof.Machine.status, cause := causeCode }

end Sys2Proof.Machine
end

