-- ==== Sys2Proof/Machine/Operands.lean ====
section
/-! DEFINITION. The values responses and state are built from: the BCD encoder (spec/40_status_and_codec.md R105, R106), the fixed
byte sequences (R110), the disc queries (spec/10_state.md R21), the position operand of set-loc, and the delays that have a
default (spec/00_scope.md R7). -/

namespace Sys2Proof.Machine

/-- `b[7:4]` as an unsigned number (spec/00_scope.md R9). -/
def highNibble (b : Byte) : Nat := (b >>> 4).toNat

/-- `b[3:0]` as an unsigned number (spec/00_scope.md R9). -/
def lowNibble (b : Byte) : Nat := (b &&& 0x0F).toNat

/-- `bcd(n)`: the tens digit in the high nibble, the ones digit in the low nibble (R105); above 99 the fault
BcdOutOfRange and no value (R106). -/
def bcd (n : Nat) : Except IssueFault Byte :=
  if n ≤ 99 then .ok ((BitVec.ofNat 8 (n / 10) <<< 4) ||| BitVec.ofNat 8 (n % 10))
  else .error (.bcdOutOfRange n)

/-- The inverse of the encoder on its image (R107). -/
def bcdInv (b : Byte) : Nat := 10 * highNibble b + lowNibble b

/-- LICENSED_TAIL: what follows the status byte in get-id's Complete packet (R110). -/
def licensedTail : List Byte := [0x00, 0x20, 0x00, 0x53, 0x43, 0x45, 0x41]

/-- NO_DISC: the payload of get-id's Error packet; constants, not computed by `status` (R110, R111). -/
def noDisc : List Byte := [0x08, 0x40, 0x00, 0x00, 0x00, 0x00, 0x00, 0x00]

/-- FIRMWARE_ID as the 4-byte response of get-bios-date (R110, R130). -/
def firmwareBytes : List Byte := Config.firmwareId.toList

/-- The first-track byte of get-track-count, `bcd(1)` (spec/43_disc_info_and_play.md R200). -/
def firstTrack : Byte := 0x01

/-- The placeholder position 00 minutes : 02 seconds of get-track-position (R201). -/
def startOfDisc : List Byte := [0x00, 0x02]

/-- The seek target of set-loc from its three parameters, unchanged (R25, R161). -/
def msfOperand (p0 p1 p2 : Byte) : Msf := { minute := p0, second := p1, frame := p2 }

/-- The disc of a drive whose disc is mounted: a handle is held and answers `is_present()` (R21, D22; log 18). -/
def mountedDisc (S : DriveRegs) : Option Disc :=
  match S.disc with
  | none => none
  | some d => if d.isPresent = true then some d else none

/-- `disc_mounted(S)` (R21). -/
def discMounted (S : DriveRegs) : Bool := (mountedDisc S).isSome

/-- D_GETID_HEAD, the delay of get-id's head packet, at its default D_FIRST (R7, R132). DESIGN CHOICE of the spec (D11,
C2; log 4). -/
def delayGetIdHead : Nat := Config.dFirst

/-- The delay of init's second packet, at its default D_FIRST (R7, R160). DESIGN CHOICE of the spec (D12; log 4). -/
def delayInitSecond : Nat := Config.dFirst

end Sys2Proof.Machine
end

