-- ==== Sys2Proof/Machine/Ops.lean ====
section
/-! DEFINITION. The shared operations: packets (spec/40_status_and_codec.md R108), the response scheduler
(spec/44_response_scheduler.md R230 to R236), raising a fault (spec/60_exceptions.md R265, R266), and taking the environment's
next step. -/

namespace Sys2Proof.Machine

/-- What the CPU's interrupt subsystem receives of a delivered event under the CAUSE_CODE of `E`: the cause code and the bytes, byte 0
first. The originating opcode is not passed (R235, R276, spec/20_memory.md R52). -/
def Delivery.wireWith (E : Encodings) (d : Delivery) : Nat × List Byte := (E.cause d.cause, d.bytes)

/-- What the interrupt subsystem receives under the default CAUSE_CODE (R268). -/
def Delivery.wire (d : Delivery) : Nat × List Byte := d.wireWith Encodings.default

/-- `pkt(cause, bytes, d, op)`: the packet constructor, with the opcode byte of the command `c` under the OPCODE_MAP of `E`
(R108, D31). -/
def pkt (E : Encodings) (cause : Cause) (bytes : List Byte) (delay : Nat) (c : Command) : Packet :=
  { cause := cause, response := bytes, cycles := delay, command := E.opcode c }

/-- `Deliver` of a packet's cause and response: unconditional; it appends `(now, cause, bytes)` to `Out` (R235). -/
def deliver (p : Packet) (s : State) : State :=
  { s with out := s.out ++ [{ time := s.now, cause := p.cause, bytes := p.response }] }

/-- `settle` on the queue `q`: deliver every head whose remaining delay is zero, in order (R232). -/
def settleFrom (s : State) : List Packet → State
  | [] => { s with queue := [] }
  | p :: q => if p.cycles = 0 then settleFrom (deliver p s) q else { s with queue := p :: q }

/-- `settle()` (R232). -/
def settle (s : State) : State := settleFrom s s.queue

/-- Count the head's delay down by one; a successor keeps its full delay (R33, R233). By R234 the head's delay is at least 1
here. -/
def countDown : List Packet → List Packet
  | [] => []
  | p :: q => { p with cycles := p.cycles - 1 } :: q

/-- `Tick()`: one emulated clock cycle (R233). -/
def tick (s : State) : State :=
  settle { s with now := s.now + 1, queue := countDown s.queue }

/-- Install a successful handler's writes and chain: the chain replaces every packet still undelivered (R230, R231), and
settles. Only the policy `replace` has rules (spec/00_scope.md R7; log 13). -/
def install (s : State) (S' : DriveRegs) (chain : List Packet) : State :=
  settle { s with drive := S', queue := chain }

/-- Raise a fault: the one operation by which an Issue faults. It writes nothing of `S`, leaves `Q`, delivers nothing, and
returns the fault to the issuer, which the model records (R265, R266). The block has no trap entry and no trap return
(R272, R273), so there is no operation beside it. -/
def raiseFault (f : IssueFault) (s : State) : State :=
  { s with faults := s.faults ++ [f] }

/-- What a handler answers: the new register file and the chain, or a fault (R230). -/
abbrev HandlerResult := Except IssueFault (DriveRegs × List Packet)

/-- The rest of an Issue once its handler has run (R230). -/
def finishIssue (s : State) : HandlerResult → State
  | .ok (S', chain) => install s S' chain
  | .error f => raiseFault f s

/-- The environment's next step, and the state without it. With nothing pending the clock goes on: a Tick (R240: Ticks keep
coming; DESIGN CHOICE, log 1). -/
def takeInput (s : State) : Stimulus × State :=
  match s.input with
  | [] => (.tick, s)
  | x :: rest => (x, { s with input := rest })

end Sys2Proof.Machine
end

