-- ==== Sys2Proof/Machine/DiscInfoPlay.lean ====
section
/-! DEFINITION. The disc information and play commands: get-track-count, get-track-position, play
(spec/43_disc_info_and_play.md R200 to R202). -/

namespace Sys2Proof.Machine

/-- get-track-count (R200): the last-track byte is the BCD of the track count plus one. It faults before any write, with no
disc mounted (R263) or a count of 99 or more (R264), in that order (R267). -/
def handleGetTN (E : Encodings) (S : DriveRegs) : HandlerResult :=
  match mountedDisc S with
  | none => .error (.noDiscMounted (E.opcode .getTrackCount))
  | some d =>
    let st := statusWith E S
    match bcd (d.trackCount + 1) with
    | .error f => .error f
    | .ok last => .ok (S, [pkt E .acknowledge [st, firstTrack, last] Config.dFirst .getTrackCount])

/-- The meaning of get-track-count (R200, R230). -/
def execGetTN (s : State) : Host.Outcome State Fault Refusal :=
  .next (finishIssue s (handleGetTN Encodings.default s.drive))

/-- get-track-position (R201): the track is ignored, a documented stub; no disc is needed. -/
def handleGetTD (E : Encodings) (_p0 : Byte) (S : DriveRegs) : HandlerResult :=
  let st := statusWith E S
  .ok (S, [pkt E .acknowledge (st :: startOfDisc) Config.dFirst .getTrackPosition])

/-- The meaning of get-track-position (R201, R230). -/
def execGetTD (p0 : Byte) (s : State) : Host.Outcome State Fault Refusal :=
  .next (finishIssue s (handleGetTD Encodings.default p0 s.drive))

/-- play (R202): an acknowledge only; there is no playing state. -/
def handlePlay (E : Encodings) (S : DriveRegs) : HandlerResult :=
  let st := statusWith E S
  .ok (S, [pkt E .acknowledge [st] Config.dFirst .play])

/-- The meaning of play (R202, R230). -/
def execPlay (s : State) : Host.Outcome State Fault Refusal :=
  .next (finishIssue s (handlePlay Encodings.default s.drive))

end Sys2Proof.Machine
end

