-- ==== Sys2Proof/Machine/DriveControl.lean ====
section
/-! DEFINITION. The drive control commands: init, set-loc, seek-data, set-mode, read-with-retry, stop-read, demute
(spec/42_drive_control.md R160 to R166). Writes and status snapshots stand in the order of the rule's pseudocode. -/

namespace Sys2Proof.Machine

/-- init (R160): the snapshot is taken after the write. It is no reset (spec/70_reset_and_hazards.md R301). -/
def handleInit (E : Encodings) (S : DriveRegs) : HandlerResult :=
  let S' := { S with motorState := .on }
  let st := statusWith E S'
  .ok (S', [pkt E .acknowledge [st] Config.dFirst .init, pkt E .complete [st] delayInitSecond .init])

/-- The meaning of init (R160, R230). -/
def execInit (s : State) : Host.Outcome State Fault Refusal :=
  .next (finishIssue s (handleInit Encodings.default s.drive))

/-- set-loc (R161): the target is stored as given, and the three streaming fields are cleared whatever they held. -/
def handleSetloc (E : Encodings) (p0 p1 p2 : Byte) (S : DriveRegs) : HandlerResult :=
  let S' := { S with
    seekTarget := msfOperand p0 p1 p2, seekComplete := false, readOffset := 0, dataQueue := [] }
  let st := statusWith E S'
  .ok (S', [pkt E .acknowledge [st] Config.dFirst .setLoc])

/-- The meaning of set-loc (R161, R230). -/
def execSetloc (p0 p1 p2 : Byte) (s : State) : Host.Outcome State Fault Refusal :=
  .next (finishIssue s (handleSetloc Encodings.default p0 p1 p2 s.drive))

/-- seek-data (R162): the head carries the status after the transition, the later Complete the status before it. The first
snapshot is of whatever the live state is (D13; log 17). -/
def handleSeekL (E : Encodings) (S : DriveRegs) : HandlerResult :=
  let before := statusWith E S
  let S' := { S with driveState := .seek }
  let after := statusWith E S'
  .ok (S', [pkt E .acknowledge [after] Config.dFirst .seekData, pkt E .complete [before] Config.dSeek .seekData])

/-- The meaning of seek-data (R162, R230). -/
def execSeekL (s : State) : Host.Outcome State Fault Refusal :=
  .next (finishIssue s (handleSeekL Encodings.default s.drive))

/-- set-mode (R163): every byte value is stored. -/
def handleSetmode (E : Encodings) (p0 : Byte) (S : DriveRegs) : HandlerResult :=
  let S' := { S with driveMode := p0 }
  let st := statusWith E S'
  .ok (S', [pkt E .acknowledge [st] Config.dFirst .setMode])

/-- The meaning of set-mode (R163, R230). -/
def execSetmode (p0 : Byte) (s : State) : Host.Outcome State Fault Refusal :=
  .next (finishIssue s (handleSetmode Encodings.default p0 s.drive))

/-- read-with-retry (R164): one snapshot after both writes (D14; log 17); only the first DataReady. -/
def handleReadN (E : Encodings) (S : DriveRegs) : HandlerResult :=
  let S' := { S with driveState := .read, readEnabled := true }
  let st := statusWith E S'
  .ok (S', [pkt E .acknowledge [st] Config.dFirst .readWithRetry, pkt E .dataReady [st] Config.dRead .readWithRetry])

/-- The meaning of read-with-retry (R164, R230). -/
def execReadN (s : State) : Host.Outcome State Fault Refusal :=
  .next (finishIssue s (handleReadN Encodings.default s.drive))

/-- stop-read (R165): the Acknowledge carries the status before the writes, the Complete the status after them (D15;
log 17). -/
def handlePause (E : Encodings) (S : DriveRegs) : HandlerResult :=
  let before := statusWith E S
  let S' := { S with driveState := .idle, readEnabled := false }
  let after := statusWith E S'
  .ok (S', [pkt E .acknowledge [before] Config.dFirst .stopRead, pkt E .complete [after] Config.dPause .stopRead])

/-- The meaning of stop-read (R165, R230). -/
def execPause (s : State) : Host.Outcome State Fault Refusal :=
  .next (finishIssue s (handlePause Encodings.default s.drive))

/-- demute (R166): no effect beyond its acknowledge. -/
def handleDemute (E : Encodings) (S : DriveRegs) : HandlerResult :=
  let st := statusWith E S
  .ok (S, [pkt E .acknowledge [st] Config.dFirst .demute])

/-- The meaning of demute (R166, R230). -/
def execDemute (s : State) : Host.Outcome State Fault Refusal :=
  .next (finishIssue s (handleDemute Encodings.default s.drive))

end Sys2Proof.Machine
end

