-- ==== Sys2Proof/Machine/Identification.lean ====
section
/-! DEFINITION. The identification and status commands: get-bios-date, get-stat, get-id (spec/41_identification.md R130 to R132). A
handler is the rule's `execute(c, S)` under the encodings `E`; a meaning is the Issue of that command under the
default encodings (spec/44_response_scheduler.md R230). -/

namespace Sys2Proof.Machine

/-- get-bios-date (R130): the four bytes of FIRMWARE_ID, whatever the drive state; no status is computed. -/
def handleTest20 (E : Encodings) (S : DriveRegs) : HandlerResult :=
  .ok (S, [pkt E .acknowledge firmwareBytes Config.dFirst .getBiosDate])

/-- The meaning of get-bios-date (R130, R230). -/
def execTest20 (s : State) : Host.Outcome State Fault Refusal :=
  .next (finishIssue s (handleTest20 Encodings.default s.drive))

/-- get-stat (R131). -/
def handleGetstat (E : Encodings) (S : DriveRegs) : HandlerResult :=
  let st := statusWith E S
  .ok (S, [pkt E .acknowledge [st] Config.dFirst .getStat])

/-- The meaning of get-stat (R131, R230). -/
def execGetstat (s : State) : Host.Outcome State Fault Refusal :=
  .next (finishIssue s (handleGetstat Encodings.default s.drive))

/-- get-id (R132). Having no disc is no fault here: it gives the Error-cause packet. -/
def handleGetID (E : Encodings) (S : DriveRegs) : HandlerResult :=
  let st := statusWith E S
  let second :=
    if discMounted S then pkt E .complete (st :: licensedTail) Config.dSecond .getId
    else pkt E .error noDisc Config.dSecond .getId
  .ok (S, [pkt E .acknowledge [st] delayGetIdHead .getId, second])

/-- The meaning of get-id (R132, R230). -/
def execGetID (s : State) : Host.Outcome State Fault Refusal :=
  .next (finishIssue s (handleGetID Encodings.default s.drive))

end Sys2Proof.Machine
end

