-- ==== Sys2Proof/Machine/Dispatch.lean ====
section
/-! DEFINITION. The dispatcher: each decoded command to its meaning (spec/30_encoding.md R76, spec/44_response_scheduler.md R230). -/

namespace Sys2Proof.Machine

def exec (i : Instr) (s : State) : Host.Outcome State Fault Refusal :=
  match i with
  | .getstat => Sys2Proof.Machine.execGetstat s
  | .setloc p0 p1 p2 => Sys2Proof.Machine.execSetloc p0 p1 p2 s
  | .play => Sys2Proof.Machine.execPlay s
  | .readN => Sys2Proof.Machine.execReadN s
  | .pause => Sys2Proof.Machine.execPause s
  | .init => Sys2Proof.Machine.execInit s
  | .demute => Sys2Proof.Machine.execDemute s
  | .setmode p0 => Sys2Proof.Machine.execSetmode p0 s
  | .getTN => Sys2Proof.Machine.execGetTN s
  | .getTD p0 => Sys2Proof.Machine.execGetTD p0 s
  | .seekL => Sys2Proof.Machine.execSeekL s
  | .test20 => Sys2Proof.Machine.execTest20 s
  | .getID => Sys2Proof.Machine.execGetID s

end Sys2Proof.Machine
end

