-- ==== Sys2Proof/Machine/Step.lean ====
section
/-! DEFINITION. One step of the machine: the environment's next Issue or Tick (spec/20_memory.md R57,
spec/44_response_scheduler.md R230, R233, R239). -/

namespace Sys2Proof.Machine

/-- `Issue(op, params)`: decode, run the handler, install its chain, settle; a decode fault leaves `S` and `Q` (R230). -/
def issue (r : RawCommand) (s : State) : Host.Outcome State Fault Refusal :=
  match decode r with
  | .error f => .next (raiseFault f s)
  | .ok i => exec i s

/-- One step: take the environment's next step and do it. -/
def step (s : State) : Host.Outcome State Fault Refusal :=
  match takeInput s with
  | (.tick, s') => .next (tick s')
  | (.issue r, s') => issue r s'

/-- `s` with the Issue of the command that a table word lays out as the environment's next step (log 2, log 22). -/
def State.withFetchWord (s : State) (nbits w : Nat) : State :=
  { s with input := .issue (rawOfWord nbits w) :: s.input }

end Sys2Proof.Machine
end

