-- ==== Sys2Proof/Machine/Parametric.lean ====
section
/-! DEFINITION. The block for any encodings (spec/00_scope.md R7: OPCODE_MAP, STATUS_ENCODING and CAUSE_CODE are parameters of a
model): the handler of a command, what an Issue answers, and the state after a step. The machine of Step.lean is this one at
`Encodings.default`. -/

namespace Sys2Proof.Machine

/-- `execute(c, S)` of spec/44_response_scheduler.md R230 under the encodings `E`: the handler of a decoded command. -/
def executeWith (E : Encodings) (i : Instr) (S : DriveRegs) : HandlerResult :=
  match i with
  | .getstat => handleGetstat E S
  | .setloc p0 p1 p2 => handleSetloc E p0 p1 p2 S
  | .play => handlePlay E S
  | .readN => handleReadN E S
  | .pause => handlePause E S
  | .init => handleInit E S
  | .demute => handleDemute E S
  | .setmode p0 => handleSetmode E p0 S
  | .getTN => handleGetTN E S
  | .getTD p0 => handleGetTD E p0 S
  | .seekL => handleSeekL E S
  | .test20 => handleTest20 E S
  | .getID => handleGetID E S

/-- What the Issue of a raw command answers under the encodings `E`, before it is installed: decode's fault, or what the handler
answers (R230). -/
def issueResultWith (E : Encodings) (S : DriveRegs) (r : RawCommand) : HandlerResult :=
  match decodeWith E.opcode r with
  | .error f => .error f
  | .ok i => executeWith E i S

/-- The state after a step under the encodings `E` (R230, R233). -/
def stepWith (E : Encodings) (s : State) : State :=
  match takeInput s with
  | (.tick, s') => tick s'
  | (.issue r, s') => finishIssue s' (issueResultWith E s'.drive r)

end Sys2Proof.Machine
end

