-- ==== Sys2Proof/WellFormed.lean ====
section
/-! DEFINITION. When a raw command is well formed (spec/30_encoding.md R72 to R77). A decoded command has nothing
to check: its operands are bytes, and every byte value is legal (R71). What can be ill formed is the pair
`(op, params)` the intake delivers, and there are exactly three checks. -/

namespace Sys2Proof

/-- The opcode is in the range of OPCODE_MAP (R77). -/
def RawCommand.opcodeKnown (r : RawCommand) : Bool := (commandOf opcodeMap r.op).isSome

/-- The parameter count is the arity of the opcode's command (R75). -/
def RawCommand.arityRight (r : RawCommand) : Bool :=
  (commandOf opcodeMap r.op).any fun c => r.params.length == arity c

/-- The Test opcode carries the sub-function 0x20 (R74). -/
def RawCommand.subFunctionRight (r : RawCommand) : Bool :=
  r.op != opcodeMap .getBiosDate || r.params == [biosDateSub]

/-- The raw command is one of the thirteen commands with its parameters. -/
def RawCommand.wellFormed (r : RawCommand) : Bool :=
  r.opcodeKnown && r.arityRight && r.subFunctionRight

/-- A decoded command is well formed when its encoding is. -/
def Instr.wellFormed (i : Instr) : Bool := (encode i).wellFormed

end Sys2Proof
end

