-- ==== Sys2Proof/Safety.lean ====
section
/-! DEFINITION. The terms claims are stated in: what a handler answers, what an Issue answers, what an installed chain leaves and
promises to deliver, and the invariant of a run. Nothing here is part of the machine. -/

namespace Sys2Proof.Machine

/-- `execute(c, S)` of spec/44_response_scheduler.md R230 under the default encodings: the handler of a decoded command. -/
def execute (i : Instr) (S : DriveRegs) : HandlerResult := executeWith Encodings.default i S

/-- What the Issue of a raw command answers before it is installed, under the default encodings: decode's fault, or what the handler
answers (R230). An Issue is successful when this is `.ok`, and faults when it is `.error` (spec/60_exceptions.md R260). -/
def issueResult (S : DriveRegs) (r : RawCommand) : HandlerResult := issueResultWith Encodings.default S r

/-- The instruction the next step issues, none where the next step is a Tick or its decoding faults. -/
def nextInstr (s : State) : Option Instr :=
  match s.input with
  | .issue r :: _ => (match decode r with | .ok i => some i | .error _ => none)
  | _ => none

/-- The next step is a Tick: a pending one, or that of an environment with nothing pending (log 1). -/
def nextIsTick (s : State) : Bool :=
  match s.input with
  | .issue _ :: _ => false
  | _ => true

/-- A packet whose remaining delay is zero. -/
def due (p : Packet) : Bool := p.cycles == 0

/-- A packet's delivery at time `t` (R235). -/
def deliveryAt (t : Nat) (p : Packet) : Delivery := { time := t, cause := p.cause, bytes := p.response }

/-- The state a successful Issue with register file `S'` and this chain leaves (R230 to R232, in closed form): the heads of the
chain with delay zero are delivered now, in order, and the chain from the first non-zero delay on is the queue. Everything else is
as before. -/
def afterIssue (s : State) (S' : DriveRegs) (chain : List Packet) : State :=
  { s with
    drive := S'
    queue := chain.dropWhile due
    out := s.out ++ (chain.takeWhile due).map (deliveryAt s.now) }

/-- When a chain that becomes pending at time `t` is delivered: the i-th packet at `t + d1 + ... + di` (R237). -/
def schedule : Nat → List Packet → List Delivery
  | _, [] => []
  | t, p :: q => deliveryAt (t + p.cycles) p :: schedule (t + p.cycles) q

/-- `d1 + ... + dN`: the time from now to the last delivery (R237, spec/70_reset_and_hazards.md R304). -/
def totalDelay (q : List Packet) : Nat := (q.map (·.cycles)).sum

/-- The queue invariant of R234: no head is due. -/
def Settled : List Packet → Prop
  | [] => True
  | p :: _ => 1 ≤ p.cycles

/-- The seek-target invariant of spec/10_state.md R30. -/
def StreamingAtReset (S : DriveRegs) : Prop :=
  S.seekComplete = false ∧ S.readOffset = 0 ∧ S.dataQueue = []

/-- The response lengths of spec/20_memory.md R54. -/
def responseLengths : List Nat := [1, 3, 4, 8]

/-- What the block keeps true of every state a run reaches. -/
structure Inv (s : State) : Prop where
  /-- R234 -/
  settled : Settled s.queue
  /-- R34: at most the two packets of one chain are pending -/
  short : s.queue.length ≤ 2
  /-- R269, R54 -/
  packets : ∀ p ∈ s.queue, p.cause ≠ .dataEnd ∧ p.response.length ∈ responseLengths
  /-- R30 -/
  streaming : StreamingAtReset s.drive
  /-- R269, R54, R39: nothing is delivered in the future -/
  delivered : ∀ d ∈ s.out, d.cause ≠ .dataEnd ∧ d.bytes.length ∈ responseLengths ∧ d.time ≤ s.now
  /-- R59: every delivery is ordered after all earlier deliveries -/
  ordered : s.out.Pairwise fun d e => d.time ≤ e.time

/-- Two states that differ at most in the fields of `S` that no rule of the block reads: `drive_mode`, `seek_target`,
`seek_complete`, `read_offset`, `read_enabled`, `data_queue` (spec/10_state.md R35, R40). -/
structure SameButInert (s s' : State) : Prop where
  disc : s'.drive.disc = s.drive.disc
  motorState : s'.drive.motorState = s.drive.motorState
  driveState : s'.drive.driveState = s.drive.driveState
  queue : s'.queue = s.queue
  out : s'.out = s.out
  now : s'.now = s.now
  faults : s'.faults = s.faults
  input : s'.input = s.input

/-- Two packets alike in everything but the payload's values: cause, delay, opcode byte and response length. -/
structure SamePacketButPayload (p q : Packet) : Prop where
  cause : q.cause = p.cause
  cycles : q.cycles = p.cycles
  command : q.command = p.command
  length : q.response.length = p.response.length

/-- Two deliveries alike in everything but the payload's values: time, cause and length. -/
structure SameDeliveryButPayload (d e : Delivery) : Prop where
  time : e.time = d.time
  cause : e.cause = d.cause
  length : e.bytes.length = d.bytes.length

/-- Two states that differ at most in the payloads of pending and delivered packets. -/
structure SameButPayloads (s s' : State) : Prop where
  drive : s'.drive = s.drive
  queue : List.Forall₂ SamePacketButPayload s.queue s'.queue
  out : List.Forall₂ SameDeliveryButPayload s.out s'.out
  now : s'.now = s.now
  faults : s'.faults = s.faults
  input : s'.input = s.input

/-- No Issue has faulted: the premise the spec gives claims about a command program (spec/60_exceptions.md R266). -/
def FaultFree (s : State) : Prop := s.faults = []

end Sys2Proof.Machine
end

