-- ==== Sys2Proof/Certificates/Slice0/Obligations.lean ====
section
/-! DEFINITION. The statements for the provers. Each docstring says which rule of spec/ its statement formalises, and where a
clause rests on a choice the spec or the model makes, it names the decision D<n> of spec/92_eei_decisions.md and the log entry.
No statement is about a program; none needs a particular value of an open parameter. -/

open Sys2Proof Sys2Proof.Machine

/-! ### Encoding -/

/-- A few raw commands of the spec's tables, written out from spec/30_encoding.md R72 and R73, decode to the instructions they
stand for, one or more of each format. The opcode bytes are the spec's default OPCODE_MAP (D3, D4; log 8). -/
def Obligations.SpecCommandsDecode : Prop :=
  decode { op := 0x01, params := [] } = .ok .getstat ∧
  decode { op := 0x02, params := [0, 2, 16] } = .ok (.setloc 0 2 16) ∧
  decode { op := 0x0E, params := [0x80] } = .ok (.setmode 0x80) ∧
  decode { op := 0x13, params := [] } = .ok .getTN ∧
  decode { op := 0x14, params := [0x07] } = .ok (.getTD 7) ∧
  decode { op := 0x19, params := [0x20] } = .ok .test20 ∧
  decode { op := 0x1A, params := [] } = .ok .getID

/-- Decode and encode agree, for every injective OPCODE_MAP (R73, R76): a raw command decodes to an instruction exactly when it is
that instruction's encoding, with every operand at every value. So no bit of an encoding is dropped and no instruction has two
encodings. The formats and arities are D4 and D5. -/
def Obligations.DecodeInvertsEncode : Prop :=
  ∀ (m : Command → Byte), Function.Injective m →
    ∀ (r : RawCommand) (i : Instr), decodeWith m r = .ok i ↔ r = encodeWith m i

/-- A raw command is well formed exactly when decoding accepts it (R72 to R77 of spec/30_encoding.md). -/
def Obligations.WellFormedExactlyWhenDecoded : Prop :=
  ∀ r : RawCommand, r.wellFormed = true ↔ ∃ i, decode r = .ok i

/-- What every Issue faults with, in the order of spec/60_exceptions.md R267, and that every other Issue succeeds: an opcode outside
the thirteen of R77; then a parameter count that is not the arity of R75; then Test with a sub-function other than 0x20 (R74); then
get-track-count with no disc mounted (R263), or with a track count of 99 or more (R264). The opcode bytes are the default map
(D3, D4; log 8), the arities D5, the order D28, the disc rules D20 to D23 (log 18 to 20). -/
def Obligations.IssueFaultsInPriorityOrder : Prop :=
  ∀ (S : DriveRegs) (op : Byte) (ps : List Byte),
    let legal : List Byte := [0x01, 0x02, 0x03, 0x06, 0x09, 0x0A, 0x0C, 0x0E, 0x13, 0x14, 0x15, 0x19, 0x1A]
    let count : Nat := if op = 0x02 then 3 else if op = 0x0E ∨ op = 0x14 ∨ op = 0x19 then 1 else 0
    if op ∉ legal then issueResult S { op := op, params := ps } = .error (.unsupportedCommand op)
    else if ps.length ≠ count then
      issueResult S { op := op, params := ps } = .error (.malformedParameters op ps.length)
    else if op = 0x19 ∧ ps ≠ [0x20] then
      issueResult S { op := op, params := ps } = .error (.unsupportedCommand op)
    else if op = 0x13 ∧ ¬ ∃ d, S.disc = some d ∧ d.isPresent = true then
      issueResult S { op := op, params := ps } = .error (.noDiscMounted op)
    else if op = 0x13 ∧ ∃ d, S.disc = some d ∧ 99 ≤ d.trackCount then
      ∃ d, S.disc = some d ∧
        issueResult S { op := op, params := ps } = .error (.bcdOutOfRange (d.trackCount + 1))
    else ∃ S' chain, issueResult S { op := op, params := ps } = .ok (S', chain)

/-! ### Status byte, BCD encoder, cause codes -/

/-- `bcd(n)` for n in 0..99 is one byte with the tens digit in the high nibble and the ones digit in the low nibble
(spec/40_status_and_codec.md R105). -/
def Obligations.BcdEncodesTwoDigits : Prop :=
  ∀ n : Nat, n ≤ 99 →
    ∃ b : Byte, bcd n = .ok b ∧
      b = ((BitVec.ofNat 8 (n / 10)) <<< 4) ||| BitVec.ofNat 8 (n % 10) ∧
      highNibble b = n / 10 ∧ lowNibble b = n % 10

/-- The laws of the BCD encoder (R106, R107): it gives the byte `b` for `n` exactly when both nibbles of `b` are decimal digits and
`n = 10 * b[7:4] + b[3:0]`, so it is injective, its image is the 100 decimal bytes, and its inverse is `bcdInv`; above 99 it gives
the fault and no value (D23; log 20). -/
def Obligations.BcdIsBijectiveOnDecimalBytes : Prop :=
  (∀ (n : Nat) (b : Byte), bcd n = .ok b ↔ highNibble b ≤ 9 ∧ lowNibble b ≤ 9 ∧ n = bcdInv b) ∧
  (∀ n : Nat, n ≤ 9 → bcd n = .ok (BitVec.ofNat 8 n)) ∧
  (∀ n : Nat, 99 < n → bcd n = .error (.bcdOutOfRange n))

/-- The status byte takes the six values of R102, by motor and activity alone, and bits 0, 2, 3, 4 and 7 are always 0 (R100,
R101). The layout is the spec's default STATUS_ENCODING (D8; log 10). -/
def Obligations.StatusByteValues : Prop :=
  ∀ S : DriveRegs,
    status S =
      (match S.motorState, S.driveState with
        | .off, .idle => 0x00
        | .off, .seek => 0x40
        | .off, .read => 0x20
        | .on, .idle => 0x02
        | .on, .seek => 0x42
        | .on, .read => 0x22) ∧
    status S &&& 0x9D = 0

/-- The wire value of each cause as a delivery hands it to the interrupt subsystem, and that the five are distinct (R235, R268). The
numbers are the spec's default CAUSE_CODE (D7; log 9). -/
def Obligations.DeliveryCarriesCauseCode : Prop :=
  (∀ (t : Nat) (bytes : List Byte),
    (Delivery.mk t .dataReady bytes).wire = (1, bytes) ∧
    (Delivery.mk t .complete bytes).wire = (2, bytes) ∧
    (Delivery.mk t .acknowledge bytes).wire = (3, bytes) ∧
    (Delivery.mk t .dataEnd bytes).wire = (4, bytes) ∧
    (Delivery.mk t .error bytes).wire = (5, bytes)) ∧
  (∀ d e : Delivery, d.wire = e.wire → d.cause = e.cause ∧ d.bytes = e.bytes)

/-- DataEnd is reserved: no handler builds a packet with it, and its code is distinct from the other four (R269). -/
def Obligations.DataEndIsNeverProduced : Prop :=
  (∀ (i : Instr) (S S' : DriveRegs) (chain : List Packet), execute i S = .ok (S', chain) →
    ∀ p ∈ chain, p.cause ≠ .dataEnd) ∧
  (∀ c : Cause, c ≠ .dataEnd → causeCode c ≠ causeCode .dataEnd)

/-! ### The commands: each completes, with exactly this next state

`afterIssue s S' chain` is `s` with the register file `S'` and the chain installed in place of the old queue, its zero-delay head
packets delivered at once; every field it does not name is that of `s`, so each statement is also the command's frame. The
opcode bytes kept in the packets are the default map (D3, D31; log 8, log 16), and every head's delay is D_FIRST (D11; log 4). -/

/-- get-stat, play and demute acknowledge with the status byte and change no field of `S` (spec/41_identification.md R131,
spec/43_disc_info_and_play.md R202, spec/42_drive_control.md R166). -/
def Obligations.GetstatPlayDemuteAcknowledge : Prop :=
  ∀ s : State,
    exec .getstat s = .next (afterIssue s s.drive [⟨.acknowledge, [status s.drive], Config.dFirst, 0x01⟩]) ∧
    exec .play s = .next (afterIssue s s.drive [⟨.acknowledge, [status s.drive], Config.dFirst, 0x03⟩]) ∧
    exec .demute s = .next (afterIssue s s.drive [⟨.acknowledge, [status s.drive], Config.dFirst, 0x0C⟩])

/-- get-bios-date acknowledges with the four bytes of FIRMWARE_ID, whatever the drive state and the disc (R130). -/
def Obligations.BiosDateReturnsFirmwareId : Prop :=
  Config.firmwareId.toList.length = 4 ∧
  ∀ s : State,
    exec .test20 s =
      .next (afterIssue s s.drive [⟨.acknowledge, Config.firmwareId.toList, Config.dFirst, 0x19⟩])

/-- get-id acknowledges with the status byte, then gives the licensed identifier if a disc is held and present, and the fixed no-disc
bytes if not (R132, R110, R111). The head's delay is D_FIRST (D11, C2; log 4), the reading of mounted is D22 (log 18). -/
def Obligations.GetIdReportsDisc : Prop :=
  ∀ s : State,
    (∀ d, s.drive.disc = some d → d.isPresent = true →
      exec .getID s = .next (afterIssue s s.drive
        [⟨.acknowledge, [status s.drive], Config.dFirst, 0x1A⟩,
         ⟨.complete, [status s.drive, 0x00, 0x20, 0x00, 0x53, 0x43, 0x45, 0x41], Config.dSecond, 0x1A⟩])) ∧
    ((¬ ∃ d, s.drive.disc = some d ∧ d.isPresent = true) →
      exec .getID s = .next (afterIssue s s.drive
        [⟨.acknowledge, [status s.drive], Config.dFirst, 0x1A⟩,
         ⟨.error, [0x08, 0x40, 0, 0, 0, 0, 0, 0], Config.dSecond, 0x1A⟩]))

/-- init turns the motor on, and both its packets carry the status byte after that (R160). The second delay is D12 (log 4). -/
def Obligations.InitTurnsMotorOn : Prop :=
  ∀ s : State,
    exec .init s = .next (afterIssue s { s.drive with motorState := .on }
      [⟨.acknowledge, [status { s.drive with motorState := .on }], Config.dFirst, 0x0A⟩,
       ⟨.complete, [status { s.drive with motorState := .on }], Config.dFirst, 0x0A⟩])

/-- set-loc stores the three bytes unchanged as the seek target and clears `seek_complete`, `read_offset` and `data_queue`, for any
prior state (R161; no range check, D6, log 19). The status byte is that of the state, before or after the writes. -/
def Obligations.SetlocStoresTargetAndClears : Prop :=
  ∀ (s : State) (m sec f : Byte),
    exec (.setloc m sec f) s = .next (afterIssue s
      { s.drive with seekTarget := ⟨m, sec, f⟩, seekComplete := false, readOffset := 0, dataQueue := [] }
      [⟨.acknowledge, [status s.drive], Config.dFirst, 0x02⟩])

/-- seek-data sets Seek; the head carries the status after, the Complete the status before (R162; the first snapshot is the live
state, D13, log 17). -/
def Obligations.SeekReportsEarlierStatusInComplete : Prop :=
  ∀ s : State,
    exec .seekL s = .next (afterIssue s { s.drive with driveState := .seek }
      [⟨.acknowledge, [status { s.drive with driveState := .seek }], Config.dFirst, 0x15⟩,
       ⟨.complete, [status s.drive], Config.dSeek, 0x15⟩])

/-- set-mode stores every byte value and changes nothing else of `S` (R163). -/
def Obligations.SetmodeStoresModeByte : Prop :=
  ∀ (s : State) (mode : Byte),
    exec (.setmode mode) s = .next (afterIssue s { s.drive with driveMode := mode }
      [⟨.acknowledge, [status s.drive], Config.dFirst, 0x0E⟩])

/-- read-with-retry sets Read and opens the streaming gate; both packets carry the status after that (R164; D14, log 17). No disc and
no motor is needed (D21, log 18). -/
def Obligations.ReadEntersReadAndAnnouncesData : Prop :=
  ∀ s : State,
    exec .readN s = .next (afterIssue s { s.drive with driveState := .read, readEnabled := true }
      [⟨.acknowledge, [status { s.drive with driveState := .read }], Config.dFirst, 0x06⟩,
       ⟨.dataReady, [status { s.drive with driveState := .read }], Config.dRead, 0x06⟩])

/-- stop-read sets Idle and closes the streaming gate at once; the Acknowledge carries the status before, the Complete the status
after (R165; D15, log 17). -/
def Obligations.PauseReturnsToIdle : Prop :=
  ∀ s : State,
    exec .pause s = .next (afterIssue s { s.drive with driveState := .idle, readEnabled := false }
      [⟨.acknowledge, [status s.drive], Config.dFirst, 0x09⟩,
       ⟨.complete, [status { s.drive with driveState := .idle }], Config.dPause, 0x09⟩])

/-- get-track-count with a mounted disc of at most 98 tracks gives the status byte, 0x01, and the BCD of the track count plus one,
given here by its digits (R200). -/
def Obligations.TrackCountReportsCountPlusOne : Prop :=
  ∀ (s : State) (d : Disc), s.drive.disc = some d → d.isPresent = true → d.trackCount ≤ 98 →
    ∃ last : Byte,
      highNibble last = (d.trackCount + 1) / 10 ∧ lowNibble last = (d.trackCount + 1) % 10 ∧
      exec .getTN s = .next (afterIssue s s.drive
        [⟨.acknowledge, [status s.drive, 0x01, last], Config.dFirst, 0x13⟩])

/-- get-track-count faults without a mounted disc, and with a track count of 99 or more; then `S`, `Q` and `Out` are as before and the
fault is recorded (R200, R263 to R266). The fault policy is D20, the meaning of mounted D22 (log 12, log 18). -/
def Obligations.TrackCountFaultsLeaveStateUnchanged : Prop :=
  ∀ s : State,
    ((¬ ∃ d, s.drive.disc = some d ∧ d.isPresent = true) →
      exec .getTN s = .next { s with faults := s.faults ++ [.noDiscMounted 0x13] }) ∧
    (∀ d, s.drive.disc = some d → d.isPresent = true → 99 ≤ d.trackCount →
      exec .getTN s = .next { s with faults := s.faults ++ [.bcdOutOfRange (d.trackCount + 1)] })

/-- get-track-position gives the fixed position 00:02 for every track, with or without a disc (R201; D21, log 18). -/
def Obligations.TrackPositionIsFixed : Prop :=
  ∀ (s : State) (track : Byte),
    exec (.getTD track) s = .next (afterIssue s s.drive
      [⟨.acknowledge, [status s.drive, 0x00, 0x02], Config.dFirst, 0x14⟩])

/-- Every successful handler's chain is an Acknowledge head with at most one successor; every packet of it keeps the opcode byte of its
command and has a response of 1, 3, 4 or 8 bytes (R34, R54, R108, R109, R268). -/
def Obligations.ChainIsAcknowledgeThenAtMostOne : Prop :=
  ∀ (i : Instr) (S S' : DriveRegs) (chain : List Packet), execute i S = .ok (S', chain) →
    ∃ p rest, chain = p :: rest ∧ p.cause = .acknowledge ∧ rest.length ≤ 1 ∧
      ∀ q ∈ chain, q.command = (encode i).op ∧ q.response.length ∈ responseLengths

/-- Issuing a command twice leaves `S` as issuing it once does, and the seven commands that write no state leave `S` as it was
(spec/20_memory.md R56). -/
def Obligations.CommandsAreIdempotentOnDriveState : Prop :=
  (∀ (i : Instr) (s t u : State), exec i s = .next t → exec i t = .next u → u.drive = t.drive) ∧
  (∀ (i : Instr) (s t : State), i ∈ [.getstat, .test20, .getID, .demute, .getTN, .play] ∨ (∃ k, i = .getTD k) →
    exec i s = .next t → t.drive = s.drive)

/-! ### Steps -/

/-- Issue (spec/44_response_scheduler.md R230): the step decodes the command, runs its handler on `S`, installs the new register file
and the chain, and settles; if decode or the handler faults, the fault is returned and `S` and `Q` are as they were; `now` does not
advance. When the command decodes to an instruction, the step is `exec` of that instruction. That the returned fault is appended to
`faults` and the machine goes on is R39, R265, R266 by the spec's decision D19, not R230's word (DESIGN CHOICE, log 12). -/
def Obligations.StepRunsDecodedCommand : Prop :=
  ∀ (s : State) (r : RawCommand) (rest : List Stimulus), s.input = .issue r :: rest →
    (∀ i, decode r = .ok i → step s = exec i { s with input := rest }) ∧
    (∀ i S' chain, decode r = .ok i → execute i s.drive = .ok (S', chain) →
      step s = .next (settle { s with input := rest, drive := S', queue := chain })) ∧
    (∀ i f, decode r = .ok i → execute i s.drive = .error f →
      step s = .next { s with input := rest, faults := s.faults ++ [f] }) ∧
    (∀ f, decode r = .error f → step s = .next { s with input := rest, faults := s.faults ++ [f] }) ∧
    (∀ t, step s = .next t → t.now = s.now)

/-- Tick (R233): `now` advances by one, the head's delay (and no other) counts down by one, and the queue settles. -/
def Obligations.TickCountsHeadDown : Prop :=
  ∀ (s : State) (rest : List Stimulus), s.input = .tick :: rest →
    (s.queue = [] → step s = .next (settle { s with input := rest, now := s.now + 1 })) ∧
    (∀ p q, s.queue = p :: q →
      step s = .next (settle
        { s with input := rest, now := s.now + 1, queue := { p with cycles := p.cycles - 1 } :: q }))

/-- A Tick with an empty queue changes nothing but `now` (and takes the Tick from the environment), and no Tick creates packets: what
is pending afterwards is what was pending, less delivered packets, but for the head's count (R236). -/
def Obligations.TickCreatesNoPacket : Prop :=
  (∀ (s : State) (rest : List Stimulus), s.input = .tick :: rest → s.queue = [] →
    step s = .next { s with input := rest, now := s.now + 1 }) ∧
  (∀ s : State, ∃ k, (tick s).queue = (countDown s.queue).drop k ∧
    (tick s).out = s.out ++ ((countDown s.queue).take k).map (deliveryAt (s.now + 1)))

/-- settle (R232): the zero-delay packets at the front of the queue are delivered at the present `now`, in order, and the rest stays
with no due head; nothing else changes. A zero-delay successor goes in the same step (D17; log 15). -/
def Obligations.SettleDeliversDueHeads : Prop :=
  ∀ s : State, ∃ gone left, s.queue = gone ++ left ∧ (∀ p ∈ gone, p.cycles = 0) ∧ Settled left ∧
    settle s = { s with
      queue := left
      out := s.out ++ gone.map fun p => { time := s.now, cause := p.cause, bytes := p.response } }

/-- With nothing pending from the environment a step is a Tick. The model's choice (log 1), after R240: Tick steps keep happening. -/
def Obligations.IdleEnvironmentTicks : Prop :=
  ∀ s : State, s.input = [] → step s = .next (tick s)

/-- No step stops: every command is accepted in every state and every fault is an outcome of its Issue (R265, R274, R278; log 12). -/
def Obligations.EveryStepAnswersNext : Prop :=
  (∀ s : State, ∃ t, step s = .next t) ∧ (∀ (i : Instr) (s : State), ∃ t, exec i s = .next t)

/-! ### Who writes what -/

/-- Tick, settle and Deliver write no field of `S`, and neither does a faulting Issue (spec/10_state.md R31). -/
def Obligations.SchedulerAndFaultsWriteNoDriveField : Prop :=
  (∀ s : State, (tick s).drive = s.drive) ∧
  (∀ s : State, (settle s).drive = s.drive) ∧
  (∀ (p : Packet) (s : State), (deliver p s).drive = s.drive) ∧
  (∀ s t : State, nextIsTick s = true → step s = .next t → t.drive = s.drive) ∧
  (∀ s t : State, step s = .next t → t.faults ≠ s.faults → t.drive = s.drive)

/-- `motor_state` (R22): two values; init sets it to On, no other step changes it, so none sets it back to Off; status reads it; it
is Off at reset. -/
def Obligations.OnlyInitWritesMotor : Prop :=
  (∀ m : MotorState, m = .off ∨ m = .on) ∧
  (∀ s t : State, step s = .next t →
    t.drive.motorState = if nextInstr s = some .init then .on else s.drive.motorState) ∧
  (∀ S : DriveRegs, status { S with motorState := .on } ≠ status { S with motorState := .off }) ∧
  State.reset.drive.motorState = .off

/-- `drive_state` (R23): three values; seek-data sets Seek, read-with-retry sets Read, stop-read sets Idle, no other step changes it;
status reads it; it is Idle at reset. -/
def Obligations.OnlySeekReadPauseWriteActivity : Prop :=
  (∀ a : DriveActivity, a = .idle ∨ a = .seek ∨ a = .read) ∧
  (∀ s t : State, step s = .next t →
    t.drive.driveState =
      if nextInstr s = some .seekL then .seek
      else if nextInstr s = some .readN then .read
      else if nextInstr s = some .pause then .idle
      else s.drive.driveState) ∧
  (∀ (S : DriveRegs) (a b : DriveActivity), a ≠ b →
    status { S with driveState := a } ≠ status { S with driveState := b }) ∧
  State.reset.drive.driveState = .idle

/-- The writers of the other seven fields of `S` (R21, R24 to R29, the table of R35): nothing writes `disc`; only set-mode writes
`drive_mode`; only set-loc writes `seek_target`, `seek_complete`, `read_offset` and `data_queue`; only read-with-retry and stop-read
write `read_enabled`. That the disc is fixed is D25 (log 6), that nothing outside the handlers writes is D18 (log 21). -/
def Obligations.OtherFieldsHaveOnlyTheirWriters : Prop :=
  ∀ s t : State, step s = .next t →
    t.drive.disc = s.drive.disc ∧
    (t.drive.driveMode = match nextInstr s with | some (.setmode mode) => mode | _ => s.drive.driveMode) ∧
    (t.drive.seekTarget =
      match nextInstr s with | some (.setloc m sec f) => ⟨m, sec, f⟩ | _ => s.drive.seekTarget) ∧
    (t.drive.seekComplete = match nextInstr s with | some (.setloc _ _ _) => false | _ => s.drive.seekComplete) ∧
    (t.drive.readOffset = match nextInstr s with | some (.setloc _ _ _) => 0 | _ => s.drive.readOffset) ∧
    (t.drive.dataQueue = match nextInstr s with | some (.setloc _ _ _) => [] | _ => s.drive.dataQueue) ∧
    (t.drive.readEnabled =
      match nextInstr s with | some .readN => true | some .pause => false | _ => s.drive.readEnabled)

/-- The observer's histories only grow: deliveries and recorded faults are never withdrawn, and `now` advances by one on a Tick and not
on an Issue (R39, R233, R239, R266; D19, D33). So a run without a recorded fault had none before. That a step with nothing pending
advances `now` too, because it is a Tick, is the model's own choice (DESIGN CHOICE, log 1). -/
def Obligations.HistoriesOnlyGrow : Prop :=
  ∀ s t : State, step s = .next t →
    s.out <+: t.out ∧ s.faults <+: t.faults ∧
    t.now = (if nextIsTick s = true then s.now + 1 else s.now) ∧
    (FaultFree t → FaultFree s)

/-! ### Reset and invariant -/

/-- Reset leaves every field at the value of R40: the motor Off and the activity Idle are the source's, `disc` is DISC0 (log 6), the
other values are the spec's decisions D19, D24, D33 (log 11), and nothing is pending from the environment (log 1). -/
def Obligations.ResetLeavesSpecValues : Prop :=
  State.reset.drive =
    { disc := Config.disc0, motorState := .off, driveState := .idle, driveMode := 0x00,
      seekTarget := ⟨0, 0, 0⟩, seekComplete := false, readOffset := 0, readEnabled := false, dataQueue := [] } ∧
  State.reset.queue = [] ∧ State.reset.out = [] ∧ State.reset.now = 0 ∧ State.reset.faults = [] ∧
  State.reset.input = []

/-- get-stat with no prior commands reports motor Off and activity Idle (R131, spec/95_test_vectors.md W2), whatever the
environment does afterwards. The opcode byte is the default map (log 8), the byte 0x00 the default encoding (log 10). -/
def Obligations.FirstGetstatReportsOffIdle : Prop :=
  ∀ rest : List Stimulus,
    step { State.reset with input := .issue { op := 0x01, params := [] } :: rest } =
      .next (afterIssue { State.reset with input := rest } State.reset.drive
        [⟨.acknowledge, [0x00], Config.dFirst, 0x01⟩])

/-- The invariant `Inv` (R30, R34, R54, R59, R234, R269) holds at reset (R40, R300). It rests on the reset values of Q, Out, now and the
streaming fields, for which the source gives none: they are the spec's decisions D24 and D33 (DESIGN CHOICE, log 11). -/
def Obligations.ResetMeetsInvariant : Prop := Inv State.reset

/-- Every step keeps the invariant: the queue is settled (R234) and holds at most two packets (R34), none of them and no delivery has the
cause DataEnd (R269) or a response length outside 1, 3, 4, 8 (R54), the streaming fields hold their reset values (R30; D18, log 21),
and the deliveries are in order of time and none is in the future (R39, R59). -/
def Obligations.StepKeepsInvariant : Prop :=
  ∀ s t : State, Inv s → step s = .next t → Inv t

/-! ### Runs -/

/-- The timing law (R237): after a successful Issue at `now = t0` with no later successful Issue among the next `n` steps, what those
steps have delivered is exactly what the chain's schedule promises up to then, the i-th packet at `t0 + d1 + ... + di`, in order, each
with its cause and payload; and once the last one's time has come, exactly the chain's deliveries have happened and nothing is
pending. Later Issues that fault do not disturb it (R305). A step with nothing pending from the environment counts as a Tick in
`t.now`: that is the model's own choice (DESIGN CHOICE, log 1); replacement, zero delays and faults are D16, D17, D19 (log 12, 13, 15). -/
def Obligations.ChainIsDeliveredOnSchedule : Prop :=
  ∀ (n : Nat) (s : State) (r : RawCommand) (rest : List Stimulus) (S' : DriveRegs) (chain : List Packet),
    s.input = .issue r :: rest → issueResult s.drive r = .ok (S', chain) →
    (∀ r', Stimulus.issue r' ∈ rest.take n → ∃ f, issueResult S' r' = .error f) →
    ∃ t : State, Sys2Proof.core.run (n + 1) s = .next t ∧
      t.now = s.now + (n - (rest.take n).length) + (rest.take n).count .tick ∧
      t.drive = S' ∧
      t.out = s.out ++ (schedule s.now chain).filter (fun d => d.time ≤ t.now) ∧
      (s.now + totalDelay chain ≤ t.now → t.out = s.out ++ schedule s.now chain ∧ t.queue = [])

/-- From any settled state, as long as no Issue succeeds, Ticks and faulting Issues deliver the pending packets exactly on the schedule
they had, keep the rest pending on that schedule, and write nothing of `S`: a faulting Issue does not cancel the pending chain
(R265, R305; D19, log 12). A step with nothing pending from the environment is a Tick by the model's choice (log 1). -/
def Obligations.FaultsDoNotDisturbPendingChain : Prop :=
  ∀ (n : Nat) (s : State), Settled s.queue →
    (∀ r, Stimulus.issue r ∈ s.input.take n → ∃ f, issueResult s.drive r = .error f) →
    ∃ t : State, Sys2Proof.core.run n s = .next t ∧
      t.drive = s.drive ∧
      t.out = s.out ++ (schedule s.now s.queue).filter (fun d => d.time ≤ t.now) ∧
      schedule t.now t.queue = (schedule s.now s.queue).filter (fun d => t.now < d.time)

/-- If Ticks keep coming, every pending packet is delivered: from a settled state with no step pending from the environment, as many
steps as the queue's total delay empty the queue (R240, D33). That each of those steps is a Tick is the model's choice (log 1). -/
def Obligations.QueueDrainsUnderTicks : Prop :=
  ∀ s : State, Settled s.queue → s.input = [] →
    ∃ t : State, Sys2Proof.core.run (totalDelay s.queue) s = .next t ∧
      t.queue = [] ∧ t.out = s.out ++ schedule s.now s.queue

/-- Replacement (R231, R238): a successful Issue leaves the same state whatever chain was still undelivered, so no packet of the old
chain is delivered afterwards. The policy is D16 (log 13). -/
def Obligations.SuccessfulIssueForgetsOldChain : Prop :=
  ∀ (i : Instr) (s : State) (q : List Packet) (S' : DriveRegs) (chain : List Packet),
    execute i s.drive = .ok (S', chain) → exec i { s with queue := q } = exec i s

/-- Deliveries are snapshots (R37, R60, R303): through any number of Ticks, a state with another register file goes through the same
deliveries and the same queue, so no delivered byte depends on the state at delivery time. A step with nothing pending from the
environment counts as a Tick by the model's choice (log 1). -/
def Obligations.DeliveriesDoNotReadDriveState : Prop :=
  ∀ (n : Nat) (s : State) (S' : DriveRegs), (∀ x ∈ s.input.take n, x = Stimulus.tick) →
    ∃ t : State, Sys2Proof.core.run n s = .next t ∧
      Sys2Proof.core.run n { s with drive := S' } = .next { t with drive := S' }

/-- The fields that no rule reads reach no response (R35, R40): two runs from states that differ only in `drive_mode`, `seek_target`,
`seek_complete`, `read_offset`, `read_enabled` and `data_queue`, with the same environment, stay equal in everything else at every
step. -/
def Obligations.InertFieldsReachNoResponse : Prop :=
  ∀ (n : Nat) (s s' : State), SameButInert s s' →
    ∃ t t' : State, Sys2Proof.core.run n s = .next t ∧ Sys2Proof.core.run n s' = .next t' ∧ SameButInert t t'

/-! ### Any encodings: OPCODE_MAP, STATUS_ENCODING and CAUSE_CODE are parameters of the model (spec/00_scope.md R7) -/

/-- The machine is the parametric block at the spec's default encodings, and these meet what R7 asks: OPCODE_MAP and CAUSE_CODE are
injective. The defaults are D3, D7 and D8 (log 8, 9, 10). -/
def Obligations.MachineIsParametricBlockAtDefaults : Prop :=
  (∀ s : State, step s = .next (stepWith Encodings.default s)) ∧ Encodings.default.Legal

/-- Every handler reads the status byte through STATUS_ENCODING, whichever it is, of the live register file at the snapshot point its
rule states (R100, R103, and R130 to R132, R160 to R166, R200 to R202; snapshot points D13 to D15, log 17), and labels its
packets through OPCODE_MAP (R108, D31). -/
def Obligations.HandlersSnapshotAnyStatusEncoding : Prop :=
  ∀ (E : Encodings) (S : DriveRegs),
    executeWith E .getstat S = .ok (S, [⟨.acknowledge, [E.status S], Config.dFirst, E.opcode .getStat⟩]) ∧
    executeWith E .play S = .ok (S, [⟨.acknowledge, [E.status S], Config.dFirst, E.opcode .play⟩]) ∧
    executeWith E .demute S = .ok (S, [⟨.acknowledge, [E.status S], Config.dFirst, E.opcode .demute⟩]) ∧
    executeWith E .test20 S =
      .ok (S, [⟨.acknowledge, Config.firmwareId.toList, Config.dFirst, E.opcode .getBiosDate⟩]) ∧
    (∀ track, executeWith E (.getTD track) S =
      .ok (S, [⟨.acknowledge, [E.status S, 0x00, 0x02], Config.dFirst, E.opcode .getTrackPosition⟩])) ∧
    (∀ d, S.disc = some d → d.isPresent = true → d.trackCount ≤ 98 →
      ∃ last, bcd (d.trackCount + 1) = .ok last ∧ executeWith E .getTN S =
        .ok (S, [⟨.acknowledge, [E.status S, 0x01, last], Config.dFirst, E.opcode .getTrackCount⟩])) ∧
    (∀ d, S.disc = some d → d.isPresent = true → executeWith E .getID S =
      .ok (S, [⟨.acknowledge, [E.status S], Config.dFirst, E.opcode .getId⟩,
        ⟨.complete, [E.status S, 0x00, 0x20, 0x00, 0x53, 0x43, 0x45, 0x41], Config.dSecond, E.opcode .getId⟩])) ∧
    ((¬ ∃ d, S.disc = some d ∧ d.isPresent = true) → executeWith E .getID S =
      .ok (S, [⟨.acknowledge, [E.status S], Config.dFirst, E.opcode .getId⟩,
        ⟨.error, [0x08, 0x40, 0, 0, 0, 0, 0, 0], Config.dSecond, E.opcode .getId⟩])) ∧
    (let S' := { S with motorState := .on };
      executeWith E .init S = .ok (S', [⟨.acknowledge, [E.status S'], Config.dFirst, E.opcode .init⟩,
        ⟨.complete, [E.status S'], Config.dFirst, E.opcode .init⟩])) ∧
    (∀ m sec f, let S' := { S with seekTarget := ⟨m, sec, f⟩, seekComplete := false, readOffset := 0, dataQueue := [] };
      executeWith E (.setloc m sec f) S =
        .ok (S', [⟨.acknowledge, [E.status S'], Config.dFirst, E.opcode .setLoc⟩])) ∧
    (let S' := { S with driveState := .seek };
      executeWith E .seekL S = .ok (S', [⟨.acknowledge, [E.status S'], Config.dFirst, E.opcode .seekData⟩,
        ⟨.complete, [E.status S], Config.dSeek, E.opcode .seekData⟩])) ∧
    (∀ mode, let S' := { S with driveMode := mode };
      executeWith E (.setmode mode) S =
        .ok (S', [⟨.acknowledge, [E.status S'], Config.dFirst, E.opcode .setMode⟩])) ∧
    (let S' := { S with driveState := .read, readEnabled := true };
      executeWith E .readN S = .ok (S', [⟨.acknowledge, [E.status S'], Config.dFirst, E.opcode .readWithRetry⟩,
        ⟨.dataReady, [E.status S'], Config.dRead, E.opcode .readWithRetry⟩])) ∧
    (let S' := { S with driveState := .idle, readEnabled := false };
      executeWith E .pause S = .ok (S', [⟨.acknowledge, [E.status S], Config.dFirst, E.opcode .stopRead⟩,
        ⟨.complete, [E.status S'], Config.dPause, E.opcode .stopRead⟩]))

/-- STATUS_ENCODING and CAUSE_CODE reach nothing but payload values: under two sets of encodings with the same OPCODE_MAP, from
states that differ at most in payload values, a step leaves states that differ at most in payload values; so the register file, the
causes, delays and times, the response lengths and the faults are the same for every layout of the status byte (R35, R37, R100,
R103). -/
def Obligations.StatusEncodingReachesOnlyPayloads : Prop :=
  ∀ (E E' : Encodings) (s s' : State), E'.opcode = E.opcode → SameButPayloads s s' →
    SameButPayloads (stepWith E s) (stepWith E' s')

/-- Under every CAUSE_CODE a delivery hands over the cause's code and the bytes as they are, byte 0 first, and nothing else (R235, R52, R276;
D26, D27, D31, log 16); and under every legal one the interrupt subsystem can tell every cause from the code it is handed (R7,
R268). -/
def Obligations.LegalCauseCodeDeterminesCause : Prop :=
  (∀ (E : Encodings) (d : Delivery), d.wireWith E = (E.cause d.cause, d.bytes)) ∧
  (∀ (E : Encodings) (d e : Delivery), E.Legal → d.wireWith E = e.wireWith E → d.cause = e.cause ∧ d.bytes = e.bytes)
end

