-- ==== Sys2Proof/Laws/Decode.lean ====
section
/-! SUPPORT. The opcode lookup and the parameter checks of decoding, said once. -/

namespace Sys2Proof

theorem mem_allCommands (c : Command) : c ∈ allCommands := by cases c <;> decide

/-- A command found for an opcode has that opcode. -/
theorem opcode_of_commandOf {m : Command → Byte} {op : Byte} {c : Command}
    (h : commandOf m op = some c) : m c = op := by
  simpa using List.find?_some h

/-- Under an injective map every command is found under its own opcode. -/
theorem commandOf_opcode {m : Command → Byte} (hm : Function.Injective m) (c : Command) :
    commandOf m (m c) = some c := by
  have h : (commandOf m (m c)).isSome := by
    rw [commandOf, List.find?_isSome]
    exact ⟨c, mem_allCommands c, by simp⟩
  obtain ⟨d, hd⟩ := Option.isSome_iff_exists.mp h
  rw [hd, hm (opcode_of_commandOf hd)]

theorem opcodeMap_injective : Function.Injective opcodeMap := by
  intro a b; cases a <;> cases b <;> decide

@[simp] theorem length_params (i : Instr) : i.params.length = arity i.command := by
  cases i <;> rfl

/-- The parameters of a decoded command are accepted and give it back. -/
theorem applyParams_params (i : Instr) (op : Byte) : applyParams i.command op i.params = .ok i := by
  cases i <;> simp [applyParams, Instr.command, Instr.params, formatC0, formatC1, formatC3, testSub]

theorem formatC0_ok {op : Byte} {i j : Instr} {ps : List Byte} (h : formatC0 op i ps = .ok j) :
    ps = [] ∧ i = j := by
  unfold formatC0 at h
  split at h
  · exact ⟨rfl, Except.ok.inj h⟩
  · cases h

theorem formatC1_ok {op : Byte} {f : Byte → Except IssueFault Instr} {j : Instr} {ps : List Byte}
    (h : formatC1 op f ps = .ok j) : ∃ p0, ps = [p0] ∧ f p0 = .ok j := by
  unfold formatC1 at h
  split at h
  · exact ⟨_, rfl, h⟩
  · cases h

theorem formatC3_ok {op : Byte} {f : Byte → Byte → Byte → Instr} {j : Instr} {ps : List Byte}
    (h : formatC3 op f ps = .ok j) : ∃ p0 p1 p2, ps = [p0, p1, p2] ∧ f p0 p1 p2 = j := by
  unfold formatC3 at h
  split at h
  · exact ⟨_, _, _, rfl, Except.ok.inj h⟩
  · cases h

theorem testSub_ok {op sub : Byte} {j : Instr} (h : testSub op sub = .ok j) :
    sub = biosDateSub ∧ j = .test20 := by
  unfold testSub at h
  split at h
  · exact ⟨‹_›, (Except.ok.inj h).symm⟩
  · cases h

/-- What the parameter checks accept is an instruction's own parameters. -/
theorem eq_of_applyParams_ok {c : Command} {op : Byte} {ps : List Byte} {i : Instr}
    (h : applyParams c op ps = .ok i) : c = i.command ∧ ps = i.params := by
  cases c <;> simp only [applyParams] at h
  case setLoc => obtain ⟨p0, p1, p2, rfl, rfl⟩ := formatC3_ok h; exact ⟨rfl, rfl⟩
  case setMode => obtain ⟨p0, rfl, h⟩ := formatC1_ok h; cases h; exact ⟨rfl, rfl⟩
  case getTrackPosition => obtain ⟨p0, rfl, h⟩ := formatC1_ok h; cases h; exact ⟨rfl, rfl⟩
  case getBiosDate =>
    obtain ⟨p0, rfl, h⟩ := formatC1_ok h
    obtain ⟨rfl, rfl⟩ := testSub_ok h
    exact ⟨rfl, rfl⟩
  all_goals obtain ⟨rfl, rfl⟩ := formatC0_ok h; exact ⟨rfl, rfl⟩

/-- With the right parameter count, the parameter checks refuse only Test's sub-function. -/
theorem applyParams_of_length {c : Command} {op : Byte} {ps : List Byte} (h : ps.length = arity c) :
    (∃ i, applyParams c op ps = .ok i) ∨
    (c = .getBiosDate ∧ ps ≠ [biosDateSub] ∧ applyParams c op ps = .error (.unsupportedCommand op)) := by
  cases c <;> simp only [arity, List.length_eq_zero_iff, List.length_eq_one_iff, List.length_eq_three] at h
  case setLoc => obtain ⟨a, b, d, rfl⟩ := h; exact .inl ⟨_, rfl⟩
  case setMode => obtain ⟨a, rfl⟩ := h; exact .inl ⟨_, rfl⟩
  case getTrackPosition => obtain ⟨a, rfl⟩ := h; exact .inl ⟨_, rfl⟩
  case getBiosDate =>
    obtain ⟨a, rfl⟩ := h
    by_cases ha : a = biosDateSub
    · exact .inl ⟨.test20, by simp [applyParams, formatC1, testSub, ha]⟩
    · exact .inr ⟨rfl, by simpa using ha, by simp [applyParams, formatC1, testSub, ha]⟩
  all_goals subst h; exact .inl ⟨_, rfl⟩

end Sys2Proof
end

