-- ==== Sys2Proof/Laws/Handlers.lean ====
section
/-! SUPPORT. What the encoder, the disc query and the one handler that can fault do, said once. The other twelve handlers answer
`.ok` by definition. -/

namespace Sys2Proof.Machine

/-- Everything `bcd` answers. -/
theorem bcd_eq_ok_iff (n : Nat) (b : Byte) :
    bcd n = .ok b ↔ n ≤ 99 ∧ b = (BitVec.ofNat 8 (n / 10) <<< 4) ||| BitVec.ofNat 8 (n % 10) := by
  unfold bcd
  split
  · simp [*, eq_comm]
  · simp [*]

theorem bcd_eq_error_of_lt {n : Nat} (h : 99 < n) : bcd n = .error (.bcdOutOfRange n) :=
  if_neg (by omega)

theorem mountedDisc_eq_some_iff (S : DriveRegs) (d : Disc) :
    mountedDisc S = some d ↔ S.disc = some d ∧ d.isPresent = true := by
  unfold mountedDisc
  rcases S.disc with _ | e
  · simp
  · simp only [Option.ite_none_right_eq_some, Option.some.injEq]
    constructor
    · rintro ⟨h, rfl⟩; exact ⟨rfl, h⟩
    · rintro ⟨rfl, h⟩; exact ⟨h, rfl⟩

/-- `disc_mounted(S)` (spec/10_state.md R21). -/
theorem discMounted_iff (S : DriveRegs) :
    discMounted S = true ↔ ∃ d, S.disc = some d ∧ d.isPresent = true := by
  simp only [discMounted, Option.isSome_iff_exists, mountedDisc_eq_some_iff]

/-- The default encodings, by their parts. -/
@[simp] theorem default_opcode (c : Command) : Encodings.default.opcode c = opcodeMap c := rfl
@[simp] theorem statusWith_default (S : DriveRegs) : statusWith Encodings.default S = status S := rfl
@[simp] theorem default_cause (c : Cause) : Encodings.default.cause c = causeCode c := rfl

/-- A successful get-track-count writes nothing and acknowledges. -/
theorem handleGetTN_ok {E : Encodings} {S S' : DriveRegs} {chain : List Packet} (h : handleGetTN E S = .ok (S', chain)) :
    S' = S ∧ ∃ last,
      chain = [pkt E .acknowledge [statusWith E S, firstTrack, last] Config.dFirst .getTrackCount] := by
  unfold handleGetTN at h
  split at h
  · cases h
  · split at h
    · cases h
    · cases h; exact ⟨rfl, _, rfl⟩

/-- With no disc mounted get-track-count faults. -/
theorem handleGetTN_noDisc {E : Encodings} {S : DriveRegs} (h : ¬ ∃ d, S.disc = some d ∧ d.isPresent = true) :
    handleGetTN E S = .error (.noDiscMounted (E.opcode .getTrackCount)) := by
  have hn : mountedDisc S = none := by
    rw [Option.eq_none_iff_forall_ne_some]
    intro d hd
    exact h ⟨d, (mountedDisc_eq_some_iff S d).mp hd⟩
  simp [handleGetTN, hn]

/-- With a disc mounted get-track-count answers what `bcd` makes of the track count plus one. -/
theorem handleGetTN_disc {E : Encodings} {S : DriveRegs} {d : Disc} (h : S.disc = some d) (hp : d.isPresent = true) :
    handleGetTN E S =
      match bcd (d.trackCount + 1) with
      | .error f => .error f
      | .ok last =>
        .ok (S, [pkt E .acknowledge [statusWith E S, firstTrack, last] Config.dFirst .getTrackCount]) := by
  have hm : mountedDisc S = some d := (mountedDisc_eq_some_iff S d).mpr ⟨h, hp⟩
  unfold handleGetTN
  generalize mountedDisc S = m at hm
  subst hm
  rfl

end Sys2Proof.Machine
end

