-- ==== Sys2Proof/Laws/State.lean ====
section
/-! SUPPORT. One lemma per field for each update of the state that is not a plain record update, true by rfl or by one induction,
so that no later proof unfolds the update. -/

namespace Sys2Proof.Machine

section raiseFault
variable (f : IssueFault) (s : State)

@[simp] theorem raiseFault_drive : (raiseFault f s).drive = s.drive := rfl
@[simp] theorem raiseFault_queue : (raiseFault f s).queue = s.queue := rfl
@[simp] theorem raiseFault_out : (raiseFault f s).out = s.out := rfl
@[simp] theorem raiseFault_now : (raiseFault f s).now = s.now := rfl
@[simp] theorem raiseFault_faults : (raiseFault f s).faults = s.faults ++ [f] := rfl
@[simp] theorem raiseFault_input : (raiseFault f s).input = s.input := rfl

end raiseFault

section deliver
variable (p : Packet) (s : State)

@[simp] theorem deliver_drive : (deliver p s).drive = s.drive := rfl
@[simp] theorem deliver_queue : (deliver p s).queue = s.queue := rfl
@[simp] theorem deliver_out :
    (deliver p s).out = s.out ++ [{ time := s.now, cause := p.cause, bytes := p.response }] := rfl
@[simp] theorem deliver_now : (deliver p s).now = s.now := rfl
@[simp] theorem deliver_faults : (deliver p s).faults = s.faults := rfl
@[simp] theorem deliver_input : (deliver p s).input = s.input := rfl

end deliver

section takeInput
variable (s : State)

@[simp] theorem takeInput_drive : (takeInput s).2.drive = s.drive := by
  unfold takeInput; split <;> rfl
@[simp] theorem takeInput_queue : (takeInput s).2.queue = s.queue := by
  unfold takeInput; split <;> rfl
@[simp] theorem takeInput_out : (takeInput s).2.out = s.out := by
  unfold takeInput; split <;> rfl
@[simp] theorem takeInput_now : (takeInput s).2.now = s.now := by
  unfold takeInput; split <;> rfl
@[simp] theorem takeInput_faults : (takeInput s).2.faults = s.faults := by
  unfold takeInput; split <;> rfl
@[simp] theorem takeInput_input : (takeInput s).2.input = s.input.tail := by
  unfold takeInput; split <;> simp_all

end takeInput

section withFetchWord
variable (s : State) (nbits w : Nat)

@[simp] theorem withFetchWord_drive : (s.withFetchWord nbits w).drive = s.drive := rfl
@[simp] theorem withFetchWord_queue : (s.withFetchWord nbits w).queue = s.queue := rfl
@[simp] theorem withFetchWord_out : (s.withFetchWord nbits w).out = s.out := rfl
@[simp] theorem withFetchWord_now : (s.withFetchWord nbits w).now = s.now := rfl
@[simp] theorem withFetchWord_faults : (s.withFetchWord nbits w).faults = s.faults := rfl
@[simp] theorem withFetchWord_input :
    (s.withFetchWord nbits w).input = .issue (rawOfWord nbits w) :: s.input := rfl

end withFetchWord

end Sys2Proof.Machine
end

