-- ==== Sys2Proof/Laws/Ops.lean ====
section
/-! SUPPORT. One lemma for each shared operation that says once everything it does; later proofs cite these and do not unfold the
operations. -/

namespace Sys2Proof.Machine

@[simp] theorem due_iff (p : Packet) : due p = true ↔ p.cycles = 0 := by simp [due]

/-- Everything `settle` does on a queue: the due heads are delivered now, in order; the rest is the queue (R232). -/
theorem settleFrom_eq (s : State) (q : List Packet) :
    settleFrom s q = afterIssue s s.drive q := by
  induction q generalizing s with
  | nil => simp [settleFrom, afterIssue]
  | cons p q ih =>
    by_cases h : p.cycles = 0
    · simp [settleFrom, h, ih, afterIssue, due, deliver, deliveryAt, List.append_assoc]
    · simp [settleFrom, h, afterIssue, due]

theorem settle_eq (s : State) : settle s = afterIssue s s.drive s.queue := settleFrom_eq s s.queue

/-- Everything `Tick` does (R233). -/
theorem tick_eq (s : State) :
    tick s = afterIssue { s with now := s.now + 1 } s.drive (countDown s.queue) := by
  simp [tick, settle_eq, afterIssue]

/-- Everything installing a chain does (R230 to R232). -/
theorem install_eq (s : State) (S' : DriveRegs) (chain : List Packet) :
    install s S' chain = afterIssue s S' chain := by
  simp [install, settle_eq, afterIssue]

@[simp] theorem finishIssue_ok (s : State) (S' : DriveRegs) (chain : List Packet) :
    finishIssue s (.ok (S', chain)) = afterIssue s S' chain := install_eq s S' chain

@[simp] theorem finishIssue_error (s : State) (f : IssueFault) :
    finishIssue s (.error f) = raiseFault f s := rfl

section afterIssue
variable (s : State) (S' : DriveRegs) (chain : List Packet)

@[simp] theorem afterIssue_drive : (afterIssue s S' chain).drive = S' := rfl
@[simp] theorem afterIssue_queue : (afterIssue s S' chain).queue = chain.dropWhile due := rfl
@[simp] theorem afterIssue_out :
    (afterIssue s S' chain).out = s.out ++ (chain.takeWhile due).map (deliveryAt s.now) := rfl
@[simp] theorem afterIssue_now : (afterIssue s S' chain).now = s.now := rfl
@[simp] theorem afterIssue_faults : (afterIssue s S' chain).faults = s.faults := rfl
@[simp] theorem afterIssue_input : (afterIssue s S' chain).input = s.input := rfl

end afterIssue

section tick
variable (s : State)

@[simp] theorem tick_drive : (tick s).drive = s.drive := by simp [tick_eq]
@[simp] theorem tick_queue : (tick s).queue = (countDown s.queue).dropWhile due := by simp [tick_eq]
@[simp] theorem tick_out :
    (tick s).out = s.out ++ ((countDown s.queue).takeWhile due).map (deliveryAt (s.now + 1)) := by
  simp [tick_eq]
@[simp] theorem tick_now : (tick s).now = s.now + 1 := by simp [tick_eq]
@[simp] theorem tick_faults : (tick s).faults = s.faults := by simp [tick_eq]
@[simp] theorem tick_input : (tick s).input = s.input := by simp [tick_eq]

end tick

/-- What the scheduler leaves pending has no due head. -/
theorem settled_dropWhile_due (q : List Packet) : Settled (q.dropWhile due) := by
  induction q with
  | nil => trivial
  | cons p q ih =>
    by_cases h : p.cycles = 0
    · simpa [List.dropWhile_cons, due, h] using ih
    · simp only [List.dropWhile_cons, due]
      simpa [h, Settled] using Nat.one_le_iff_ne_zero.mpr h

/-- Delivering the due heads of a chain now keeps the promise its schedule makes. -/
theorem schedule_split_due (t : Nat) (q : List Packet) :
    (q.takeWhile due).map (deliveryAt t) ++ schedule t (q.dropWhile due) = schedule t q := by
  induction q with
  | nil => rfl
  | cons p q ih =>
    by_cases h : p.cycles = 0
    · simp [due, h, schedule, ← ih]
    · simp [due, h, schedule]

/-- Counting the head of a settled queue down while the clock goes on keeps its schedule. -/
theorem schedule_countDown (t : Nat) (q : List Packet) (h : Settled q) :
    schedule (t + 1) (countDown q) = schedule t q := by
  cases q with
  | nil => rfl
  | cons p q =>
    have e : t + 1 + (p.cycles - 1) = t + p.cycles := by simp only [Settled] at h; omega
    simp only [countDown, schedule, e, deliveryAt]

/-- Nothing is scheduled before the present. -/
theorem le_time_of_mem_schedule (t : Nat) (q : List Packet) : ∀ d ∈ schedule t q, t ≤ d.time := by
  induction q generalizing t with
  | nil => simp [schedule]
  | cons p q ih =>
    intro d hd
    rcases List.mem_cons.mp hd with rfl | hd
    · simp [deliveryAt]
    · have := ih _ d hd; omega

/-- What a settled queue still promises lies in the future. -/
theorem lt_time_of_mem_schedule (t : Nat) (q : List Packet) (h : Settled q) :
    ∀ d ∈ schedule t q, t < d.time := by
  cases q with
  | nil => simp [schedule]
  | cons p q =>
    intro d hd
    simp only [Settled] at h
    rcases List.mem_cons.mp hd with rfl | hd
    · simp only [deliveryAt]; omega
    · have := le_time_of_mem_schedule _ _ d hd; omega

/-- Everything is scheduled within the total delay. -/
theorem time_le_of_mem_schedule (t : Nat) (q : List Packet) :
    ∀ d ∈ schedule t q, d.time ≤ t + totalDelay q := by
  induction q generalizing t with
  | nil => simp [schedule]
  | cons p q ih =>
    intro d hd
    rcases List.mem_cons.mp hd with rfl | hd
    · simp [deliveryAt, totalDelay]
    · have := ih _ d hd
      simp only [totalDelay, List.map_cons, List.sum_cons] at *
      omega

end Sys2Proof.Machine
end

