-- ==== Sys2Proof/Laws/PerInstr.lean ====
section
/-! SUPPORT. The statement made of every instruction as syntax, one lemma per constructor. -/

namespace Sys2Proof.Laws.EncodeWellFormed

/-- The encoding of an instruction is a well-formed raw command (spec/30_encoding.md R72 to R75). -/
def Statement (i : Instr) : Prop := i.wellFormed = true

theorem getstat : Statement .getstat := rfl
theorem setloc (p0 p1 p2 : Byte) : Statement (.setloc p0 p1 p2) := rfl
theorem play : Statement .play := rfl
theorem readN : Statement .readN := rfl
theorem pause : Statement .pause := rfl
theorem init : Statement .init := rfl
theorem demute : Statement .demute := rfl
theorem setmode (p0 : Byte) : Statement (.setmode p0) := rfl
theorem getTN : Statement .getTN := rfl
theorem getTD (p0 : Byte) : Statement (.getTD p0) := rfl
theorem seekL : Statement .seekL := rfl
theorem test20 : Statement .test20 := rfl
theorem getID : Statement .getID := rfl

end Sys2Proof.Laws.EncodeWellFormed
end

