-- ==== Sys2Proof/Laws/Step.lean ====
section
/-! SUPPORT. What `exec`, `issue`, `step` and a run of steps do, said once. -/

namespace Sys2Proof.Machine

/-- Every instruction is the Issue of its handler (R230), and none stops. -/
theorem exec_eq (i : Instr) (s : State) : exec i s = .next (finishIssue s (execute i s.drive)) := by
  cases i <;> rfl

/-- Everything an Issue does. -/
theorem issue_eq (r : RawCommand) (s : State) :
    issue r s = .next (finishIssue s (issueResult s.drive r)) := by
  unfold issue issueResult issueResultWith
  rw [show decodeWith Encodings.default.opcode r = decode r from rfl]
  cases decode r with
  | error f => rfl
  | ok i => exact exec_eq i s

/-- The state after a step; a step never stops. -/
def stepped (s : State) : State :=
  match takeInput s with
  | (.tick, s') => tick s'
  | (.issue r, s') => finishIssue s' (issueResult s'.drive r)

/-- An Issue's answer under the default encodings, by its decoding. -/
theorem issueResult_eq (S : DriveRegs) (r : RawCommand) :
    issueResult S r = (decode r).bind fun i => execute i S := by
  unfold issueResult issueResultWith
  rw [show decodeWith Encodings.default.opcode r = decode r from rfl]
  cases decode r <;> rfl

theorem step_eq (s : State) : step s = .next (stepped s) := by
  unfold step stepped
  rcases takeInput s with ⟨x, s'⟩
  cases x with
  | tick => rfl
  | issue r => exact issue_eq r s'

/-- The machine's step is the parametric one at the default encodings. -/
theorem stepped_eq_stepWith (s : State) : stepped s = stepWith Encodings.default s := rfl

theorem step_idle (s : State) (h : s.input = []) : step s = .next (tick s) := by
  simp [step, takeInput, h]

theorem step_tick (s : State) (rest : List Stimulus) (h : s.input = .tick :: rest) :
    step s = .next (tick { s with input := rest }) := by
  simp [step, takeInput, h]

theorem step_issue (s : State) (r : RawCommand) (rest : List Stimulus) (h : s.input = .issue r :: rest) :
    step s = issue r { s with input := rest } := by
  simp [step, takeInput, h]

/-- Everything a step can do: a Tick, a faulting Issue, or a successful Issue. -/
theorem stepped_cases (s : State) :
    (nextIsTick s = true ∧ stepped s = tick { s with input := s.input.tail }) ∨
    (∃ r f, s.input.head? = some (.issue r) ∧ issueResult s.drive r = .error f ∧
      stepped s = raiseFault f { s with input := s.input.tail }) ∨
    (∃ r S' chain, s.input.head? = some (.issue r) ∧ issueResult s.drive r = .ok (S', chain) ∧
      stepped s = afterIssue { s with input := s.input.tail } S' chain) := by
  rcases hi : s.input with _ | ⟨x, rest⟩
  · left
    have : ({ s with input := [] } : State) = s := by cases s; simp_all
    simp [stepped, takeInput, nextIsTick, hi, this]
  · cases x with
    | tick => left; simp [stepped, takeInput, nextIsTick, hi]
    | issue r =>
      right
      rcases hr : issueResult s.drive r with f | ⟨S', chain⟩
      · left; exact ⟨r, f, by simp, hr, by simp [stepped, takeInput, hi, hr]⟩
      · right; exact ⟨r, S', chain, by simp, hr, by simp [stepped, takeInput, hi, hr]⟩

/-- A `next` determines its state. -/
theorem next_inj {a b : State} (h : (Host.Outcome.next a : Host.Outcome State Fault Refusal) = .next b) :
    a = b := by cases h; rfl

/-- The register file a handler's answer leaves: the new one, or the old one on a fault (R230, R265). -/
def driveAfter (S : DriveRegs) : HandlerResult → DriveRegs
  | .ok (S', _) => S'
  | .error _ => S

@[simp] theorem driveAfter_ok (S S' : DriveRegs) (chain : List Packet) :
    driveAfter S (.ok (S', chain)) = S' := rfl
@[simp] theorem driveAfter_error (S : DriveRegs) (f : IssueFault) : driveAfter S (.error f) = S := rfl

/-- get-track-count writes nothing of `S`, whether it answers or faults. -/
@[simp] theorem driveAfter_getTN (E : Encodings) (S : DriveRegs) : driveAfter S (handleGetTN E S) = S := by
  rcases h : handleGetTN E S with f | ⟨S', chain⟩
  · rfl
  · exact (handleGetTN_ok h).1

@[simp] theorem finishIssue_drive (s : State) (r : HandlerResult) :
    (finishIssue s r).drive = driveAfter s.drive r := by
  rcases r with f | ⟨S', chain⟩ <;> simp

/-- The register file after a step is the one the issued instruction's handler gives, and as before where nothing is issued or the
Issue faults. -/
theorem stepped_drive (s : State) :
    (stepped s).drive =
      match nextInstr s with
      | some i => driveAfter s.drive (execute i s.drive)
      | none => s.drive := by
  rcases hi : s.input with _ | ⟨x, rest⟩
  · simp [stepped, takeInput, nextInstr, hi]
  · cases x with
    | tick => simp [stepped, takeInput, nextInstr, hi]
    | issue r =>
      simp only [stepped, takeInput, nextInstr, hi, issueResult_eq]
      rcases decode r with f | i
      · simp [Except.bind]
      · simp [Except.bind]

@[simp] theorem run_zero (s : State) : Sys2Proof.core.run 0 s = .next s := rfl

@[simp] theorem run_succ (n : Nat) (s : State) :
    Sys2Proof.core.run (n + 1) s = Sys2Proof.core.run n (stepped s) := by
  have h : Sys2Proof.core.step s = .next (stepped s) := step_eq s
  simp only [Host.Core.run, h]

end Sys2Proof.Machine
end

