-- ==== Sys2Proof/Machine/Script.lean ====
section
/-! DEFINITION. The spec's script notation for command programs, as data, and how a script becomes the environment's steps
(spec/30_encoding.md R79, R80; log 2, log 24). -/

namespace Sys2Proof.Machine

/-- One script line (R79, R80). -/
inductive ScriptLine where
  /-- `ISSUE <mnemonic> p0, p1, ...` -/
  | issue (c : Command) (params : List Byte)
  /-- `ISSUE` of an opcode byte that has no mnemonic, as spec/95_test_vectors.md P3 writes it -/
  | issueRaw (op : Byte) (params : List Byte)
  /-- `TICK <n>`; a plain `TICK` is `TICK 1` -/
  | tick (n : Nat)
  deriving DecidableEq, Repr

/-- The steps of one line. For get-bios-date the sub-function 0x20 is implied and not written (R79); `TICK n` is n Ticks
(R80). -/
def ScriptLine.steps : ScriptLine → List Stimulus
  | .issue .getBiosDate params =>
      [.issue { op := opcodeMap .getBiosDate, params := biosDateSub :: params }]
  | .issue c params => [.issue { op := opcodeMap c, params := params }]
  | .issueRaw op params => [.issue { op := op, params := params }]
  | .tick n => List.replicate n .tick

/-- `s` with a script as the environment's next steps, before those already pending. -/
def State.load (s : State) (script : List ScriptLine) : State :=
  { s with input := script.flatMap ScriptLine.steps ++ s.input }

end Sys2Proof.Machine
end

