-- ==== Sys2Proof/Tests/Slice0.lean ====
section
/-! SUPPORT. The model's own tests. Expected values are written out from spec/30_encoding.md (words) and from the vectors of
spec/95_test_vectors.md, never from the model. A test whose result holds an open parameter is by rfl, since nothing evaluates an
open parameter; every other test is by decide. The witnesses at the end meet the hypotheses of the statements. -/

namespace Sys2Proof.Tests

open Sys2Proof Sys2Proof.Machine

/-! ### Helpers -/

/-- A drive in a given activity, every other field at its reset value but for the disc. -/
def drive (m : MotorState) (a : DriveActivity) (disc : Option Disc := none) : DriveRegs :=
  { DriveRegs.reset with motorState := m, driveState := a, disc := disc }

/-- A state with this drive and queue. -/
def state (S : DriveRegs) (q : List Packet := []) (input : List Stimulus := []) : State :=
  { State.reset with drive := S, queue := q, input := input }

/-- What a handler answers, without the delays: the register file and each packet's cause and response. -/
def answer : HandlerResult → Except IssueFault (DriveRegs × List (Cause × List Byte))
  | .ok (S, chain) => .ok (S, chain.map fun p => (p.cause, p.response))
  | .error f => .error f

/-- The delays of a handler's chain. -/
def delays : HandlerResult → List Nat
  | .ok (_, chain) => chain.map (·.cycles)
  | .error _ => []

def fourTracks : Disc := { isPresent := true, trackCount := 4 }

/-! ### Decoding: words written out from R72 and R73, and the vectors of 95, 2.3 -/

theorem test_decode_getstat : decode ⟨0b00000001, []⟩ = .ok .getstat := by decide
theorem test_decode_setloc : decode ⟨0b00000010, [0, 2, 0]⟩ = .ok (.setloc 0 2 0) := by decide
theorem test_decode_play : decode ⟨0b00000011, []⟩ = .ok .play := by decide
theorem test_decode_readN : decode ⟨0b00000110, []⟩ = .ok .readN := by decide
theorem test_decode_pause : decode ⟨0b00001001, []⟩ = .ok .pause := by decide
theorem test_decode_init : decode ⟨0b00001010, []⟩ = .ok .init := by decide
theorem test_decode_demute : decode ⟨0b00001100, []⟩ = .ok .demute := by decide
theorem test_decode_setmode : decode ⟨0b00001110, [0x80]⟩ = .ok (.setmode 0x80) := by decide
theorem test_decode_getTN : decode ⟨0b00010011, []⟩ = .ok .getTN := by decide
theorem test_decode_getTD : decode ⟨0b00010100, [0x07]⟩ = .ok (.getTD 7) := by decide
theorem test_decode_seekL : decode ⟨0b00010101, []⟩ = .ok .seekL := by decide
theorem test_decode_test20 : decode ⟨0b00011001, [0b00100000]⟩ = .ok .test20 := by decide
theorem test_decode_getID : decode ⟨0b00011010, []⟩ = .ok .getID := by decide

/-- The same words as table words: opcode in bits 7..0, parameters above. -/
theorem test_decode_table_words :
    decodeTableWord 8 0x01 = some .getstat ∧ decodeTableWord 32 0x10020002 = some (.setloc 0 2 16) ∧
    decodeTableWord 8 0x02 = some (.setloc 0 0 0) ∧ decodeTableWord 16 0x800E = some (.setmode 0x80) ∧
    decodeTableWord 16 0x2019 = some .test20 ∧ decodeTableWord 8 0x08 = none := by decide

theorem test_reject_excess : decode ⟨0x01, [0]⟩ = .error (.malformedParameters 0x01 1) := by decide
theorem test_reject_too_few : decode ⟨0x02, [0, 2]⟩ = .error (.malformedParameters 0x02 2) := by decide
theorem test_reject_play_param : decode ⟨0x03, [1]⟩ = .error (.malformedParameters 0x03 1) := by decide
theorem test_reject_sub : decode ⟨0x19, [0x21]⟩ = .error (.unsupportedCommand 0x19) := by decide
theorem test_reject_arity_before_sub : decode ⟨0x19, []⟩ = .error (.malformedParameters 0x19 0) := by decide
theorem test_reject_sync : decode ⟨0x00, []⟩ = .error (.unsupportedCommand 0x00) := by decide
theorem test_reject_stop : decode ⟨0x08, []⟩ = .error (.unsupportedCommand 0x08) := by decide
theorem test_reject_opcode_before_arity : decode ⟨0xFF, [1, 2]⟩ = .error (.unsupportedCommand 0xFF) := by decide

/-! ### Well-formedness: one ill-formed term for each check, which the check refuses -/

theorem test_wf_opcode : (RawCommand.mk 0x08 []).opcodeKnown = false ∧ (RawCommand.mk 0x08 []).wellFormed = false := by
  decide
theorem test_wf_arity : (RawCommand.mk 0x02 [0, 2]).arityRight = false ∧ (RawCommand.mk 0x02 [0, 2]).wellFormed = false := by
  decide
theorem test_wf_sub :
    (RawCommand.mk 0x19 [0x21]).subFunctionRight = false ∧ (RawCommand.mk 0x19 [0x21]).wellFormed = false := by decide
theorem test_wf_accepts : (RawCommand.mk 0x19 [0x20]).wellFormed = true := by decide

/-! ### Status byte and BCD encoder (95, 2.1 and 2.2) -/

/-- Another STATUS_ENCODING, of the test's own: bit 0 for the motor. The handlers follow it. -/
def otherEncodings : Encodings :=
  { Encodings.default with status := fun S => if S.motorState = .on then 0x01 else 0x00 }

theorem test_other_status_encoding :
    answer (handleInit otherEncodings (drive .off .read)) =
      .ok (drive .on .read, [(.acknowledge, [0x01]), (.complete, [0x01])]) := by decide
theorem test_status :
    status (drive .off .idle) = 0x00 ∧ status (drive .off .seek) = 0x40 ∧ status (drive .off .read) = 0x20 ∧
    status (drive .on .idle) = 0x02 ∧ status (drive .on .seek) = 0x42 ∧ status (drive .on .read) = 0x22 := by decide
theorem test_bcd :
    bcd 0 = .ok 0x00 ∧ bcd 1 = .ok firstTrack ∧ bcd 9 = .ok 0x09 ∧ bcd 10 = .ok 0x10 ∧ bcd 42 = .ok 0x42 ∧
    bcd 59 = .ok 0x59 ∧ bcd 99 = .ok 0x99 := by decide
theorem test_bcd_out_of_range : bcd 100 = .error (.bcdOutOfRange 100) ∧ bcd 255 = .error (.bcdOutOfRange 255) := by decide

/-! ### Commands (95, 2.4 to 2.6) -/

theorem test_test20 (m : MotorState) (a : DriveActivity) :
    answer (handleTest20 Encodings.default (drive m a)) = .ok (drive m a, [(.acknowledge, Config.firmwareId.toList)]) := rfl
theorem test_getstat_reset : answer (handleGetstat Encodings.default DriveRegs.reset) = .ok (DriveRegs.reset, [(.acknowledge, [0x00])]) := rfl
theorem test_getstat_seek :
    answer (handleGetstat Encodings.default (drive .on .seek)) = .ok (drive .on .seek, [(.acknowledge, [0x42])]) := by decide
theorem test_getID_disc :
    answer (handleGetID Encodings.default (drive .on .read (some fourTracks))) = .ok (drive .on .read (some fourTracks),
      [(.acknowledge, [0x22]), (.complete, [0x22, 0x00, 0x20, 0x00, 0x53, 0x43, 0x45, 0x41])]) := by decide
theorem test_getID_not_present :
    answer (handleGetID Encodings.default (drive .on .idle (some { isPresent := false, trackCount := 4 }))) =
      .ok (drive .on .idle (some { isPresent := false, trackCount := 4 }),
        [(.acknowledge, [0x02]), (.error, [0x08, 0x40, 0, 0, 0, 0, 0, 0])]) := by decide
theorem test_init_from_read :
    answer (handleInit Encodings.default (drive .off .read)) =
      .ok (drive .on .read, [(.acknowledge, [0x22]), (.complete, [0x22])]) := by decide
theorem test_setloc_clears :
    answer (handleSetloc Encodings.default 1 2 3
      { drive .on .read with seekComplete := true, readOffset := 100, dataQueue := [1, 2, 3] }) =
      .ok ({ drive .on .read with seekTarget := ⟨1, 2, 3⟩ }, [(.acknowledge, [0x22])]) := by decide
theorem test_setloc_no_range_check :
    answer (handleSetloc Encodings.default 0 99 200 (drive .off .idle)) =
      .ok ({ drive .off .idle with seekTarget := ⟨0, 99, 200⟩ }, [(.acknowledge, [0x00])]) := by decide
theorem test_seekL_from_read :
    answer (handleSeekL Encodings.default { drive .on .read with readEnabled := true }) =
      .ok ({ drive .on .seek with readEnabled := true }, [(.acknowledge, [0x42]), (.complete, [0x22])]) := by decide
theorem test_seekL_from_idle :
    answer (handleSeekL Encodings.default (drive .off .idle)) = .ok (drive .off .seek, [(.acknowledge, [0x40]), (.complete, [0x00])]) := by
  decide
theorem test_setmode :
    answer (handleSetmode Encodings.default 0xFF (drive .off .idle)) =
      .ok ({ drive .off .idle with driveMode := 0xFF }, [(.acknowledge, [0x00])]) := by decide
theorem test_readN_from_seek :
    answer (handleReadN Encodings.default (drive .on .seek)) =
      .ok ({ drive .on .read with readEnabled := true }, [(.acknowledge, [0x22]), (.dataReady, [0x22])]) := by decide
theorem test_pause_from_read :
    answer (handlePause Encodings.default { drive .on .read with readEnabled := true }) =
      .ok (drive .on .idle, [(.acknowledge, [0x22]), (.complete, [0x02])]) := by decide
theorem test_demute : answer (handleDemute Encodings.default (drive .on .read)) = .ok (drive .on .read, [(.acknowledge, [0x22])]) := by decide
theorem test_getTN_count_98 :
    answer (handleGetTN Encodings.default (drive .on .idle (some { isPresent := true, trackCount := 98 }))) =
      .ok (drive .on .idle (some { isPresent := true, trackCount := 98 }), [(.acknowledge, [0x02, 0x01, 0x99])]) := by decide
theorem test_getTN_faults :
    answer (handleGetTN Encodings.default (drive .on .idle (some { isPresent := true, trackCount := 99 }))) = .error (.bcdOutOfRange 100) ∧
    answer (handleGetTN Encodings.default (drive .on .idle)) = .error (.noDiscMounted 0x13) ∧
    answer (handleGetTN Encodings.default (drive .on .idle (some { isPresent := false, trackCount := 4 }))) =
      .error (.noDiscMounted 0x13) :=
  ⟨by decide, by decide, by decide⟩
theorem test_getTD :
    answer (handleGetTD Encodings.default 0xFF (drive .off .seek)) = .ok (drive .off .seek, [(.acknowledge, [0x40, 0x00, 0x02])]) := by decide
theorem test_play : answer (handlePlay Encodings.default (drive .on .read)) = .ok (drive .on .read, [(.acknowledge, [0x22])]) := by decide

/-- The delays of the table of spec/70_reset_and_hazards.md R307. -/
theorem test_delays (S : DriveRegs) :
    delays (handleTest20 Encodings.default S) = [Config.dFirst] ∧ delays (handleGetstat Encodings.default S) = [Config.dFirst] ∧
    delays (handleInit Encodings.default S) = [Config.dFirst, Config.dFirst] ∧ delays (handleSetloc Encodings.default 0 2 0 S) = [Config.dFirst] ∧
    delays (handleSeekL Encodings.default S) = [Config.dFirst, Config.dSeek] ∧ delays (handleSetmode Encodings.default 0 S) = [Config.dFirst] ∧
    delays (handleReadN Encodings.default S) = [Config.dFirst, Config.dRead] ∧ delays (handlePause Encodings.default S) = [Config.dFirst, Config.dPause] ∧
    delays (handleDemute Encodings.default S) = [Config.dFirst] ∧ delays (handleGetTD Encodings.default 0 S) = [Config.dFirst] ∧
    delays (handlePlay Encodings.default S) = [Config.dFirst] :=
  ⟨rfl, rfl, rfl, rfl, rfl, rfl, rfl, rfl, rfl, rfl, rfl⟩
theorem test_delays_disc :
    delays (handleGetID Encodings.default (drive .on .idle (some fourTracks))) = [Config.dFirst, Config.dSecond] ∧
    delays (handleGetID Encodings.default (drive .on .idle)) = [Config.dFirst, Config.dSecond] ∧
    delays (handleGetTN Encodings.default (drive .on .idle (some fourTracks))) = [Config.dFirst] := ⟨rfl, rfl, rfl⟩

/-! ### Scheduler (95, 2.7) -/

def packetA (d : Nat) : Packet := { cause := .acknowledge, response := [0x02], cycles := d, command := 0x0A }
def packetB (d : Nat) : Packet := { cause := .complete, response := [0x42], cycles := d, command := 0x0A }

theorem test_settle_two_zero_delays :
    settle (state (drive .off .idle) [packetA 0, packetB 0]) =
      { state (drive .off .idle) with out := [⟨0, .acknowledge, [0x02]⟩, ⟨0, .complete, [0x42]⟩] } := by decide
theorem test_settle_keeps_successor_delay :
    settle (state (drive .off .idle) [packetA 0, packetB 4]) =
      { state (drive .off .idle) [packetB 4] with out := [⟨0, .acknowledge, [0x02]⟩] } := by decide
theorem test_tick_counts_head_only :
    tick (state (drive .off .idle) [packetA 3, packetB 5]) =
      { state (drive .off .idle) [packetA 2, packetB 5] with now := 1 } := by decide
theorem test_tick_delivers_at_zero :
    tick { state (drive .off .idle) [packetA 1, packetB 5] with now := 2 } =
      { state (drive .off .idle) [packetB 5] with now := 3, out := [⟨3, .acknowledge, [0x02]⟩] } := by decide
theorem test_install_replaces :
    install { state (drive .off .idle) [packetA 1, packetB 5] with now := 2 } (drive .off .idle) [packetB 3] =
      { state (drive .off .idle) [packetB 3] with now := 2 } := by decide
theorem test_fault_leaves_queue :
    step (state (drive .on .idle) [packetA 2, packetB 5] [.issue ⟨0x08, []⟩]) =
      .next { state (drive .on .idle) [packetA 2, packetB 5] with faults := [.unsupportedCommand 0x08] } := rfl
theorem test_cause_codes :
    [Cause.dataReady, .complete, .acknowledge, .dataEnd, .error].map causeCode = [1, 2, 3, 4, 5] := by decide
theorem test_script_steps :
    (State.reset.load [.issue .getBiosDate [], .tick 2, .issueRaw 0x08 [], .tick 0]).input =
      [.issue ⟨0x19, [0x20]⟩, .tick, .tick, .issue ⟨0x08, []⟩] := by decide
theorem test_fetch_word_runs_first :
    step (State.reset.withFetchWord 16 0x800E) = exec (.setmode 0x80) State.reset := rfl

/-! ### Witnesses: for each statement with hypotheses, a state and operands that meet all of them, at the ends of their ranges -/

theorem witness_DecodeInvertsEncode :
    Function.Injective opcodeMap ∧ decodeWith opcodeMap ⟨0x0E, [0xFF]⟩ = .ok (.setmode 0xFF) :=
  ⟨opcodeMap_injective, by decide⟩

theorem witness_IssueFaultsInPriorityOrder :
    answer (issueResult (drive .on .idle) ⟨0x1B, []⟩) = .error (.unsupportedCommand 0x1B) ∧
    answer (issueResult (drive .on .idle) ⟨0x13, [0]⟩) = .error (.malformedParameters 0x13 1) ∧
    answer (issueResult (drive .on .idle) ⟨0x19, [0x1F]⟩) = .error (.unsupportedCommand 0x19) ∧
    answer (issueResult (drive .on .idle) ⟨0x13, []⟩) = .error (.noDiscMounted 0x13) ∧
    answer (issueResult (drive .on .idle (some ⟨false, 99⟩)) ⟨0x13, []⟩) = .error (.noDiscMounted 0x13) ∧
    answer (issueResult (drive .on .idle (some ⟨true, 99⟩)) ⟨0x13, []⟩) = .error (.bcdOutOfRange 100) ∧
    answer (issueResult (drive .on .idle (some ⟨true, 98⟩)) ⟨0x13, []⟩) =
      .ok (drive .on .idle (some ⟨true, 98⟩), [(.acknowledge, [0x02, 0x01, 0x99])]) :=
  ⟨by decide, by decide, by decide, by decide, by decide, by decide, by decide⟩

theorem witness_BcdEncodesTwoDigits : (0 ≤ 99 ∧ bcd 0 = .ok 0x00) ∧ (99 ≤ 99 ∧ bcd 99 = .ok 0x99) := by decide
theorem witness_BcdIsBijectiveOnDecimalBytes :
    bcd 9 = .ok (BitVec.ofNat 8 9) ∧ highNibble 0x99 ≤ 9 ∧ lowNibble 0x99 ≤ 9 ∧ 99 = bcdInv 0x99 ∧ 99 < 100 := by decide
theorem witness_DeliveryCarriesCauseCode :
    (Delivery.mk 0 .error [0x08]).wire = (Delivery.mk 7 .error [0x08]).wire := by decide
theorem witness_DataEndIsNeverProduced :
    (∃ S' chain, execute .init (drive .off .idle) = .ok (S', chain)) ∧ Cause.error ≠ .dataEnd := ⟨⟨_, _, rfl⟩, by decide⟩
theorem witness_GetIdReportsDisc :
    ((state (drive .off .idle (some ⟨true, 0⟩))).drive.disc = some ⟨true, 0⟩) ∧
    (¬ ∃ d, (state (drive .off .idle)).drive.disc = some d ∧ d.isPresent = true) ∧
    (¬ ∃ d, (state (drive .off .idle (some ⟨false, 0⟩))).drive.disc = some d ∧ d.isPresent = true) := by
  refine ⟨rfl, ?_, ?_⟩ <;> simp [state, drive]
theorem witness_TrackCountReportsCountPlusOne :
    ((state (drive .off .idle (some ⟨true, 0⟩))).drive.disc = some ⟨true, 0⟩ ∧ 0 ≤ 98) ∧
    ((state (drive .off .idle (some ⟨true, 98⟩))).drive.disc = some ⟨true, 98⟩ ∧ 98 ≤ 98) := by decide
theorem witness_TrackCountFaultsLeaveStateUnchanged :
    (¬ ∃ d, (state (drive .on .idle)).drive.disc = some d ∧ d.isPresent = true) ∧
    (state (drive .on .idle (some ⟨true, 99⟩))).drive.disc = some ⟨true, 99⟩ := by
  refine ⟨?_, rfl⟩; simp [state, drive]
theorem witness_ChainIsAcknowledgeThenAtMostOne :
    (∃ S' chain, execute .getTN (drive .on .idle (some ⟨true, 98⟩)) = .ok (S', chain)) ∧
    (∃ S' chain, execute .getID (drive .on .idle) = .ok (S', chain)) := ⟨⟨_, _, rfl⟩, ⟨_, _, rfl⟩⟩
theorem witness_CommandsAreIdempotentOnDriveState :
    (∃ t u, exec .seekL (state (drive .on .read)) = .next t ∧ exec .seekL t = .next u) ∧
    (∃ t, exec (.getTD 0xFF) (state (drive .on .read)) = .next t) := ⟨⟨_, _, rfl, rfl⟩, ⟨_, rfl⟩⟩

/-- The four clauses of an Issue: a handler that answers, a handler that faults, a decode fault. -/
theorem witness_StepRunsDecodedCommand :
    (∃ S' chain, decode ⟨0x0A, []⟩ = .ok .init ∧ execute .init (drive .off .idle) = .ok (S', chain)) ∧
    (∃ f, decode ⟨0x13, []⟩ = .ok .getTN ∧ execute .getTN (drive .on .idle) = .error f) ∧
    (∃ f, decode ⟨0x0E, []⟩ = .error f) ∧
    (state (drive .off .idle) [] [.issue ⟨0x0A, []⟩]).input = [.issue ⟨0x0A, []⟩] :=
  ⟨⟨_, _, rfl, rfl⟩, ⟨_, rfl, rfl⟩, ⟨_, rfl⟩, rfl⟩
theorem witness_TickCountsHeadDown :
    ((state (drive .off .idle) [] [.tick]).input = [.tick] ∧ (state (drive .off .idle) [] [.tick]).queue = []) ∧
    (state (drive .off .idle) [packetA 1, packetB 0] [.tick]).queue = [packetA 1, packetB 0] := by decide
theorem witness_TickCreatesNoPacket :
    (state (drive .off .idle) [] [.tick]).input = [.tick] ∧ (state (drive .off .idle) [] [.tick]).queue = [] := by decide
theorem witness_IdleEnvironmentTicks : State.reset.input = [] := by decide
theorem witness_SchedulerAndFaultsWriteNoDriveField :
    (nextIsTick State.reset = true ∧ ∃ t, step State.reset = .next t) ∧
    (∃ t, step (state (drive .on .idle) [] [.issue ⟨0xFF, []⟩]) = .next t ∧
      t.faults ≠ (state (drive .on .idle) [] [.issue ⟨0xFF, []⟩]).faults) :=
  ⟨⟨rfl, _, rfl⟩, ⟨_, rfl, by decide⟩⟩
theorem witness_OnlyInitWritesMotor :
    ∃ t, step (state (drive .off .idle) [] [.issue ⟨0x0A, []⟩]) = .next t ∧
      nextInstr (state (drive .off .idle) [] [.issue ⟨0x0A, []⟩]) = some .init := ⟨_, rfl, rfl⟩
theorem witness_OnlySeekReadPauseWriteActivity :
    (∃ t, step (state (drive .on .read) [] [.issue ⟨0x15, []⟩]) = .next t) ∧ DriveActivity.idle ≠ .read :=
  ⟨⟨_, rfl⟩, by decide⟩
theorem witness_OtherFieldsHaveOnlyTheirWriters :
    ∃ t, step (state (drive .on .read) [] [.issue ⟨0x02, [0xFF, 0xFF, 0xFF]⟩]) = .next t ∧
      nextInstr (state (drive .on .read) [] [.issue ⟨0x02, [0xFF, 0xFF, 0xFF]⟩]) = some (.setloc 0xFF 0xFF 0xFF) :=
  ⟨_, rfl, rfl⟩
theorem witness_HistoriesOnlyGrow :
    ∃ t, step (state (drive .on .read) [packetA 1] [.tick]) = .next t ∧ FaultFree t := ⟨_, rfl, rfl⟩
theorem witness_StepKeepsInvariant :
    Inv (state DriveRegs.reset [packetA 1, packetB 0] [.tick]) ∧
    ∃ t, step (state DriveRegs.reset [packetA 1, packetB 0] [.tick]) = .next t := by
  refine ⟨⟨by simp [state, Settled, packetA], by decide, ?_, ⟨rfl, rfl, rfl⟩, ?_, ?_⟩, ⟨_, rfl⟩⟩
  · simp [state, packetA, packetB, responseLengths]
  · simp [state, State.reset]
  · simp [state, State.reset]

/-- An Issue, then a faulting Issue and a Tick. -/
theorem witness_ChainIsDeliveredOnSchedule :
    (∃ S' chain, issueResult (drive .off .idle) ⟨0x0A, []⟩ = .ok (S', chain) ∧
      ∀ r', Stimulus.issue r' ∈ [Stimulus.issue ⟨0x08, []⟩, .tick].take 2 → ∃ f, issueResult S' r' = .error f) ∧
    (state (drive .off .idle) [] [.issue ⟨0x0A, []⟩, .issue ⟨0x08, []⟩, .tick]).input =
      [.issue ⟨0x0A, []⟩, .issue ⟨0x08, []⟩, .tick] := by
  refine ⟨⟨_, _, rfl, ?_⟩, rfl⟩
  intro r' h
  simp only [List.take, List.mem_cons, Stimulus.issue.injEq, List.not_mem_nil, or_false, reduceCtorEq] at h
  subst h
  exact ⟨_, rfl⟩
theorem witness_FaultsDoNotDisturbPendingChain :
    Settled (state (drive .on .idle) [packetA 1, packetB 0] [.issue ⟨0x13, []⟩]).queue ∧
    ∀ r, Stimulus.issue r ∈ (state (drive .on .idle) [packetA 1, packetB 0] [.issue ⟨0x13, []⟩]).input.take 3 →
      ∃ f, issueResult (drive .on .idle) r = .error f := by
  refine ⟨by simp [state, Settled, packetA], ?_⟩
  intro r h
  simp only [state, List.take, List.mem_cons, Stimulus.issue.injEq, List.not_mem_nil, or_false] at h
  subst h
  exact ⟨_, rfl⟩
theorem witness_QueueDrainsUnderTicks :
    Settled (state (drive .on .idle) [packetA 3, packetB 5]).queue ∧
    (state (drive .on .idle) [packetA 3, packetB 5]).input = [] ∧
    totalDelay (state (drive .on .idle) [packetA 3, packetB 5]).queue = 8 :=
  ⟨by simp [state, Settled, packetA], by decide, by decide⟩
theorem witness_SuccessfulIssueForgetsOldChain :
    ∃ S' chain, execute .getstat (state (drive .on .idle) [packetA 1, packetB 5]).drive = .ok (S', chain) := ⟨_, _, rfl⟩
theorem witness_DeliveriesDoNotReadDriveState :
    ∀ x ∈ (state (drive .on .idle) [packetA 1, packetB 5] [.tick]).input.take 2, x = Stimulus.tick := by decide
theorem witness_InertFieldsReachNoResponse :
    SameButInert (state (drive .on .idle))
      (state { drive .on .idle with
        driveMode := 0xFF, seekTarget := ⟨1, 2, 3⟩, seekComplete := true, readOffset := 1, readEnabled := true, dataQueue := [1] }) := ⟨rfl, rfl, rfl, rfl, rfl, rfl, rfl, rfl⟩

theorem witness_HandlersSnapshotAnyStatusEncoding :
    ((drive .off .idle (some ⟨true, 0⟩)).disc = some ⟨true, 0⟩ ∧ (drive .off .idle (some ⟨true, 98⟩)).disc = some ⟨true, 98⟩) ∧
    (¬ ∃ d, (drive .off .idle (some ⟨false, 98⟩)).disc = some d ∧ d.isPresent = true) := by
  refine ⟨⟨rfl, rfl⟩, ?_⟩; simp [drive]
theorem witness_StatusEncodingReachesOnlyPayloads :
    otherEncodings.opcode = Encodings.default.opcode ∧
    SameButPayloads (state (drive .on .idle) [packetA 1]) (state (drive .on .idle) [{ packetA 1 with response := [0x01] }]) :=
  ⟨rfl, rfl, .cons ⟨rfl, rfl, rfl, rfl⟩ .nil, .nil, rfl, rfl, rfl⟩
theorem witness_LegalCauseCodeDeterminesCause :
    Encodings.default.Legal ∧
    (Delivery.mk 0 .error [0x08]).wireWith Encodings.default = (Delivery.mk 7 .error [0x08]).wireWith Encodings.default :=
  ⟨⟨opcodeMap_injective, by intro a b; cases a <;> cases b <;> decide⟩, rfl⟩

end Sys2Proof.Tests
end

/-! PROOF. Who writes the register file `S`: the writers' table of spec/10_state.md R35 as one function, the fields it leaves, and the
statements of the state family. -/

namespace Sys2Proof.Machine

/-! ### What a step writes -/

/-- What each command writes of `S`: the writers' table of R35. A command it does not name writes nothing. -/
def driveWrites : Instr → DriveRegs → DriveRegs
  | .init, S => { S with motorState := .on }
  | .setloc p0 p1 p2, S =>
    { S with seekTarget := msfOperand p0 p1 p2, seekComplete := false, readOffset := 0, dataQueue := [] }
  | .seekL, S => { S with driveState := .seek }
  | .setmode p0, S => { S with driveMode := p0 }
  | .readN, S => { S with driveState := .read, readEnabled := true }
  | .pause, S => { S with driveState := .idle, readEnabled := false }
  | _, S => S

/-- The handlers write what the table says; get-track-count writes nothing on its fault paths either. -/
theorem driveAfter_execute (i : Instr) (S : DriveRegs) : driveAfter S (execute i S) = driveWrites i S := by
  cases i with
  | getTN => exact driveAfter_getTN Encodings.default S
  | _ => rfl

theorem driveWrites_motorState (i : Instr) (S : DriveRegs) :
    (driveWrites i S).motorState = if i = .init then .on else S.motorState := by
  cases i <;> rfl

theorem driveWrites_driveState (i : Instr) (S : DriveRegs) :
    (driveWrites i S).driveState =
      if i = .seekL then .seek else if i = .readN then .read else if i = .pause then .idle
      else S.driveState := by
  cases i <;> rfl

theorem eq_stepped_of_step {s t : State} (h : step s = .next t) : t = stepped s :=
  (next_inj ((step_eq s).symm.trans h)).symm

/-- A step that issues an instruction writes what the table says. -/
theorem step_drive_of_nextInstr {s t : State} {i : Instr} (h : step s = .next t) (hi : nextInstr s = some i) :
    t.drive = driveWrites i s.drive := by
  rw [eq_stepped_of_step h, stepped_drive, hi]
  exact driveAfter_execute i s.drive

/-- A step that issues no instruction, a Tick or an Issue that does not decode, writes nothing of `S`. -/
theorem step_drive_of_nextInstr_none {s t : State} (h : step s = .next t) (hi : nextInstr s = none) :
    t.drive = s.drive := by
  rw [eq_stepped_of_step h, stepped_drive, hi]

theorem nextInstr_eq_none_of_nextIsTick {s : State} (h : nextIsTick s = true) : nextInstr s = none := by
  unfold nextIsTick at h
  split at h
  · cases h
  next hissue =>
    unfold nextInstr
    split
    next r rest hinput => exact absurd hinput (hissue r rest)
    next => rfl

/-- An Issue that records a fault leaves `S` (R265); no other step records one. -/
theorem step_drive_of_faults_ne {s t : State} (h : step s = .next t) (hf : t.faults ≠ s.faults) :
    t.drive = s.drive := by
  obtain rfl := eq_stepped_of_step h
  obtain ⟨-, htick⟩ | ⟨r, f, -, -, hfault⟩ | ⟨r, S', chain, -, -, hok⟩ := stepped_cases s
  · simp [htick]
  · simp [hfault]
  · exact absurd (by simp [hok]) hf

/-! ### The status byte reads the motor and the activity -/

/-- The motor a status byte reports: bit 1 (R100, R101). -/
def motorOfStatus (b : Byte) : MotorState := if b.getLsbD 1 then .on else .off

/-- The activity a status byte reports: bit 5 for Read, bit 6 for Seek (R100, R101). -/
def activityOfStatus (b : Byte) : DriveActivity :=
  if b.getLsbD 5 then .read else if b.getLsbD 6 then .seek else .idle

theorem motorOfStatus_status (S : DriveRegs) : motorOfStatus (status S) = S.motorState := by
  unfold status
  cases S.motorState <;> cases S.driveState <;> rfl

theorem activityOfStatus_status (S : DriveRegs) : activityOfStatus (status S) = S.driveState := by
  unfold status
  cases S.motorState <;> cases S.driveState <;> rfl

theorem motorState_eq_of_status_eq {S T : DriveRegs} (h : status S = status T) : S.motorState = T.motorState := by
  rw [← motorOfStatus_status S, h, motorOfStatus_status]

theorem driveState_eq_of_status_eq {S T : DriveRegs} (h : status S = status T) : S.driveState = T.driveState := by
  rw [← activityOfStatus_status S, h, activityOfStatus_status]

/-! ### The statements -/

/-- Settles O30: a Tick issues no instruction, and of an Issue only the successful one writes `S`, which records no fault. -/
theorem schedulerAndFaultsWriteNoDriveField : Obligations.SchedulerAndFaultsWriteNoDriveField := by
  refine ⟨tick_drive, fun s => ?_, deliver_drive, fun s t htick h => ?_, fun s t => step_drive_of_faults_ne⟩
  · rw [settle_eq, afterIssue_drive]
  · exact step_drive_of_nextInstr_none h (nextInstr_eq_none_of_nextIsTick htick)

/-- Settles O31, by the writers' table of the step and the motor bit of the status byte. -/
theorem onlyInitWritesMotor : Obligations.OnlyInitWritesMotor := by
  refine ⟨fun m => ?_, fun s t h => ?_, fun S hstatus => ?_, rfl⟩
  · cases m <;> simp
  · cases hi : nextInstr s with
    | none => simp [step_drive_of_nextInstr_none h hi]
    | some i => simp [step_drive_of_nextInstr h hi, driveWrites_motorState]
  · exact absurd (motorState_eq_of_status_eq hstatus) (by simp)

/-- Settles O32, by the writers' table of the step and the two activity bits of the status byte. -/
theorem onlySeekReadPauseWriteActivity : Obligations.OnlySeekReadPauseWriteActivity := by
  refine ⟨fun a => ?_, fun s t h => ?_, fun S a b hab hstatus => ?_, rfl⟩
  · cases a <;> simp
  · cases hi : nextInstr s with
    | none => simp [step_drive_of_nextInstr_none h hi]
    | some i => simp [step_drive_of_nextInstr h hi, driveWrites_driveState]
  · exact hab (driveState_eq_of_status_eq hstatus)

end Sys2Proof.Machine

/-! PROOF. The BCD encoder packs two decimal digits into one byte (spec/40_status_and_codec.md R105). -/

namespace Sys2Proof.Machine

/-! ### Nibbles as quotient and remainder -/

theorem highNibble_eq_div (b : Byte) : highNibble b = b.toNat / 16 := by
  simp [highNibble, Nat.shiftRight_eq_div_pow]

theorem lowNibble_eq_mod (b : Byte) : lowNibble b = b.toNat % 16 := by
  simpa [lowNibble] using Nat.and_two_pow_sub_one_eq_mod b.toNat 4

/-! ### A byte packed from two nibbles -/

section packed

variable {hi lo : Nat}

/-- The two nibbles do not overlap, so their `|||` is a sum. -/
theorem packed_toNat (hhi : hi < 16) (hlo : lo < 16) :
    ((BitVec.ofNat 8 hi <<< 4) ||| BitVec.ofNat 8 lo).toNat = 16 * hi + lo := by
  have hshift : (BitVec.ofNat 8 hi <<< 4).toNat = hi <<< 4 := by
    simp only [BitVec.toNat_shiftLeft, BitVec.toNat_ofNat, Nat.shiftLeft_eq]
    omega
  have hlow : (BitVec.ofNat 8 lo).toNat = lo := Nat.mod_eq_of_lt (by omega)
  rw [BitVec.toNat_or, hshift, hlow, ← Nat.shiftLeft_add_eq_or_of_lt hlo, Nat.shiftLeft_eq]
  omega

theorem highNibble_packed (hhi : hi < 16) (hlo : lo < 16) :
    highNibble ((BitVec.ofNat 8 hi <<< 4) ||| BitVec.ofNat 8 lo) = hi := by
  rw [highNibble_eq_div, packed_toNat hhi hlo]
  omega

theorem lowNibble_packed (hhi : hi < 16) (hlo : lo < 16) :
    lowNibble ((BitVec.ofNat 8 hi <<< 4) ||| BitVec.ofNat 8 lo) = lo := by
  rw [lowNibble_eq_mod, packed_toNat hhi hlo]
  omega

end packed

/-! ### The statement -/

/-- Settles O5: both digits of `n ≤ 99` fit a nibble, and `bcd` packs them. -/
theorem bcdEncodesTwoDigits : Obligations.BcdEncodesTwoDigits := by
  intro n hn
  have htens : n / 10 < 16 := by omega
  have hones : n % 10 < 16 := by omega
  exact ⟨_, (bcd_eq_ok_iff n _).mpr ⟨hn, rfl⟩, rfl, highNibble_packed htens hones, lowNibble_packed htens hones⟩

end Sys2Proof.Machine

/-! PROOF. A step as the Issue or the Tick it takes from the environment (spec/44_response_scheduler.md R230, R233). -/

namespace Sys2Proof.Machine

/-! ### What an Issue does, by its decoding -/

theorem issue_of_decode_ok {r : RawCommand} {i : Instr} (h : decode r = .ok i) (s : State) :
    issue r s = exec i s := by
  simp [issue, h]

theorem issue_of_decode_error {r : RawCommand} {f : IssueFault} (h : decode r = .error f) (s : State) :
    issue r s = .next (raiseFault f s) := by
  simp [issue, h]

@[simp] theorem finishIssue_now (s : State) (result : HandlerResult) : (finishIssue s result).now = s.now := by
  rcases result with f | ⟨S', chain⟩ <;> simp

theorem exec_of_execute_ok {i : Instr} {s : State} {S' : DriveRegs} {chain : List Packet}
    (h : execute i s.drive = .ok (S', chain)) : exec i s = .next (install s S' chain) := by
  rw [exec_eq, h]
  rfl

theorem exec_of_execute_error {i : Instr} {s : State} {f : IssueFault} (h : execute i s.drive = .error f) :
    exec i s = .next (raiseFault f s) := by
  rw [exec_eq, h]
  rfl

/-- An Issue takes no time (R230). -/
theorem now_eq_of_issue {r : RawCommand} {s t : State} (h : issue r s = .next t) : t.now = s.now := by
  obtain rfl := next_inj ((issue_eq r s).symm.trans h)
  exact finishIssue_now s _

/-! ### What a Tick counts down -/

@[simp] theorem countDown_nil : countDown [] = [] := rfl

@[simp] theorem countDown_cons (p : Packet) (q : List Packet) :
    countDown (p :: q) = { p with cycles := p.cycles - 1 } :: q := rfl

/-- A step whose pending input is a Tick, before its queue settles (R233). -/
theorem step_tick_settle {s : State} {rest : List Stimulus} (h : s.input = .tick :: rest) :
    step s = .next (settle { s with input := rest, now := s.now + 1, queue := countDown s.queue }) :=
  step_tick s rest h

/-! ### The statements -/

/-- Settles O24: the step is the Issue it takes, whose decoding and handler answer give the cases. -/
theorem stepRunsDecodedCommand : Obligations.StepRunsDecodedCommand := by
  intro s r rest hinput
  have hstep := step_issue s r rest hinput
  have hexec : ∀ i, decode r = .ok i → step s = exec i { s with input := rest } :=
    fun i hi => hstep.trans (issue_of_decode_ok hi _)
  refine ⟨hexec, fun i S' chain hi hok => ?_, fun i f hi herr => ?_, fun f hf => ?_, fun t ht => ?_⟩
  · exact (hexec i hi).trans (exec_of_execute_ok hok)
  · exact (hexec i hi).trans (exec_of_execute_error herr)
  · exact hstep.trans (issue_of_decode_error hf _)
  · exact (now_eq_of_issue (hstep.symm.trans ht) :)

/-- Settles O25, by the countdown of an empty and of a non-empty queue. -/
theorem tickCountsHeadDown : Obligations.TickCountsHeadDown := by
  intro s rest hinput
  have hstep := step_tick_settle hinput
  refine ⟨fun hempty => ?_, fun p q hqueue => ?_⟩
  · rw [hstep, hempty, countDown_nil]
  · rw [hstep, hqueue, countDown_cons]

end Sys2Proof.Machine

/-! PROOF. Which causes the handlers' packets carry, and that DataEnd is not among them (spec/60_exceptions.md R268, R269). -/

namespace Sys2Proof.Machine

/-! ### The causes of a chain -/

/-- The second packet of get-id is a Complete with a disc mounted and an Error without one (R132). -/
theorem causes_of_handleGetID_ok {E : Encodings} {S S' : DriveRegs} {chain : List Packet}
    (h : handleGetID E S = .ok (S', chain)) :
    chain.map Packet.cause = [.acknowledge, .complete] ∨ chain.map Packet.cause = [.acknowledge, .error] := by
  unfold handleGetID at h
  cases h
  cases discMounted S with
  | true => exact .inl rfl
  | false => exact .inr rfl

/-- Every chain is an Acknowledge, alone or with one later packet: a Complete, a DataReady or an Error (R34, R269). -/
theorem causes_of_executeWith_ok {E : Encodings} {i : Instr} {S S' : DriveRegs} {chain : List Packet}
    (h : executeWith E i S = .ok (S', chain)) :
    ∃ later, chain.map Packet.cause = .acknowledge :: later ∧
      (later = [] ∨ later = [.complete] ∨ later = [.dataReady] ∨ later = [.error]) := by
  cases i with
  | getTN =>
    obtain ⟨-, last, rfl⟩ := handleGetTN_ok h
    exact ⟨_, rfl, .inl rfl⟩
  | getID =>
    obtain hcomplete | herror := causes_of_handleGetID_ok h
    · exact ⟨_, hcomplete, .inr (.inl rfl)⟩
    · exact ⟨_, herror, .inr (.inr (.inr rfl))⟩
  | getstat | setloc | play | demute | setmode | getTD | test20 => cases h; exact ⟨_, rfl, .inl rfl⟩
  | init | seekL | pause => cases h; exact ⟨_, rfl, .inr (.inl rfl)⟩
  | readN => cases h; exact ⟨_, rfl, .inr (.inr (.inl rfl))⟩

theorem cause_ne_dataEnd_of_executeWith_ok {E : Encodings} {i : Instr} {S S' : DriveRegs} {chain : List Packet}
    (h : executeWith E i S = .ok (S', chain)) {p : Packet} (hp : p ∈ chain) : p.cause ≠ .dataEnd := by
  obtain ⟨later, hcauses, hlater⟩ := causes_of_executeWith_ok h
  have hmem : p.cause ∈ Cause.acknowledge :: later := hcauses ▸ List.mem_map_of_mem hp
  intro hend
  rw [hend] at hmem
  obtain rfl | rfl | rfl | rfl := hlater <;> simp at hmem

/-! ### The cause codes -/

/-- The wire tells the five causes apart, as R7 asks of CAUSE_CODE. -/
theorem causeCode_injective : Function.Injective causeCode := by
  intro a b
  cases a <;> cases b <;> decide

/-! ### The statement -/

/-- Settles O9: the causes of every handler's chain are known, and the cause codes are injective. -/
theorem dataEndIsNeverProduced : Obligations.DataEndIsNeverProduced :=
  ⟨fun _ _ _ _ h _ => cause_ne_dataEnd_of_executeWith_ok h, fun _ => causeCode_injective.ne⟩

end Sys2Proof.Machine

/-! PROOF. The statements about decoding and the values, about what each command answers, and about what every step and every run
keeps: what a handler answers and what a step does are said once, and the statements follow. -/

namespace Sys2Proof.Machine

/-! ### Decoding inverts encoding (spec/30_encoding.md R73 to R77) -/

theorem decodeWith_of_commandOf_none {m : Command → Byte} {r : RawCommand} (h : commandOf m r.op = none) :
    decodeWith m r = .error (.unsupportedCommand r.op) := by
  simp [decodeWith, h]

theorem decodeWith_of_commandOf_some {m : Command → Byte} {r : RawCommand} {c : Command}
    (h : commandOf m r.op = some c) :
    decodeWith m r = if r.params.length = arity c then applyParams c r.op r.params
      else .error (.malformedParameters r.op r.params.length) := by
  simp [decodeWith, h]

theorem decodeWith_encodeWith {m : Command → Byte} (hm : Function.Injective m) (i : Instr) :
    decodeWith m (encodeWith m i) = .ok i := by
  rw [decodeWith_of_commandOf_some (r := encodeWith m i) (commandOf_opcode hm i.command)]
  exact (if_pos (length_params i)).trans (applyParams_params i _)

theorem eq_encodeWith_of_decodeWith_ok {m : Command → Byte} {r : RawCommand} {i : Instr}
    (h : decodeWith m r = .ok i) : r = encodeWith m i := by
  cases hc : commandOf m r.op with
  | none => rw [decodeWith_of_commandOf_none hc] at h; cases h
  | some c =>
    rw [decodeWith_of_commandOf_some hc] at h
    split at h
    · obtain ⟨rfl, hparams⟩ := eq_of_applyParams_ok h
      rw [encodeWith, ← hparams, opcode_of_commandOf hc]
    · cases h

/-- Settles O2: the decoder takes an encoding back, and what it accepts is an encoding. -/
theorem decodeInvertsEncode : Obligations.DecodeInvertsEncode := by
  intro m hm r i
  constructor
  · exact eq_encodeWith_of_decodeWith_ok
  · rintro rfl
    exact decodeWith_encodeWith hm i

theorem decode_encode (i : Instr) : decode (encode i) = .ok i := decodeWith_encodeWith opcodeMap_injective i

/-- Settles O1: each of the seven commands is the encoding of the instruction it stands for. -/
theorem specCommandsDecode : Obligations.SpecCommandsDecode :=
  ⟨decode_encode .getstat, decode_encode (.setloc 0 2 16), decode_encode (.setmode 0x80), decode_encode .getTN,
    decode_encode (.getTD 7), decode_encode .test20, decode_encode .getID⟩

theorem wellFormed_encode (i : Instr) : (encode i).wellFormed = true := by
  cases i <;> rfl

/-- The three checks leave nothing for decoding to refuse. -/
theorem decode_ok_of_wellFormed {r : RawCommand} (h : r.wellFormed = true) : ∃ i, decode r = .ok i := by
  simp only [RawCommand.wellFormed, Bool.and_eq_true] at h
  obtain ⟨⟨hknown, harity⟩, hsub⟩ := h
  obtain ⟨c, hc⟩ := Option.isSome_iff_exists.mp hknown
  have hlen : r.params.length = arity c := by simpa [RawCommand.arityRight, hc] using harity
  have hdecode : decode r = applyParams c r.op r.params := by
    rw [decode, decodeWith_of_commandOf_some hc, if_pos hlen]
  obtain ⟨i, hi⟩ | ⟨rfl, hne, -⟩ := applyParams_of_length (op := r.op) hlen
  · exact ⟨i, hdecode.trans hi⟩
  · simp [RawCommand.subFunctionRight, opcode_of_commandOf hc, hne] at hsub

/-- Settles O3: well-formed commands decode, and what decodes is an encoding, which is well formed. -/
theorem wellFormedExactlyWhenDecoded : Obligations.WellFormedExactlyWhenDecoded := by
  intro r
  constructor
  · exact decode_ok_of_wellFormed
  · rintro ⟨i, hi⟩
    rw [eq_encodeWith_of_decodeWith_ok hi]
    exact wellFormed_encode i

/-! ### Settling and counting down a queue (spec/44_response_scheduler.md R232, R233, R236) -/

/-- Settles O27: the queue splits at its first packet that is not due. -/
theorem settleDeliversDueHeads : Obligations.SettleDeliversDueHeads := by
  intro s
  refine ⟨s.queue.takeWhile due, s.queue.dropWhile due, ?_, fun p hp => ?_, settled_dropWhile_due s.queue, settle_eq s⟩
  · exact List.takeWhile_append_dropWhile.symm
  · exact (due_iff p).mp (List.mem_takeWhile_imp hp)

/-- Settles O26: a Tick takes the due heads of the counted-down queue, and an empty queue has none. -/
theorem tickCreatesNoPacket : Obligations.TickCreatesNoPacket := by
  constructor
  · intro s rest hinput hqueue
    rw [step_tick s rest hinput, tick_eq]
    simp [hqueue, afterIssue]
  · intro s
    refine ⟨(countDown s.queue).findIdx fun p => !due p, ?_, ?_⟩
    · rw [tick_queue, List.dropWhile_eq_drop_findIdx_not]
    · rw [tick_out, List.takeWhile_eq_take_findIdx_not]

/-- Settles O28, by the model's own choice for an empty input. -/
theorem idleEnvironmentTicks : Obligations.IdleEnvironmentTicks := step_idle

/-- Settles O29: a step is a Tick or an Issue, and an Issue's fault is recorded in its next state. -/
theorem everyStepAnswersNext : Obligations.EveryStepAnswersNext :=
  ⟨fun s => ⟨_, step_eq s⟩, fun i s => ⟨_, exec_eq i s⟩⟩

/-! ### The values: BCD encoder, status byte, cause codes (spec/40_status_and_codec.md, spec/60_exceptions.md R268) -/

/-- A byte is its two nibbles packed. -/
theorem packed_nibbles (b : Byte) :
    (BitVec.ofNat 8 (highNibble b) <<< 4) ||| BitVec.ofNat 8 (lowNibble b) = b := by
  have hb : b.toNat < 256 := b.isLt
  rw [highNibble_eq_div, lowNibble_eq_mod]
  apply BitVec.eq_of_toNat_eq
  rw [packed_toNat (by omega) (by omega)]
  omega

/-- The bytes `bcd` answers are the decimal ones, each for the number its digits say (R107). -/
theorem bcd_eq_ok_iff_bcdInv (n : Nat) (b : Byte) :
    bcd n = .ok b ↔ highNibble b ≤ 9 ∧ lowNibble b ≤ 9 ∧ n = bcdInv b := by
  rw [bcd_eq_ok_iff]
  constructor
  · rintro ⟨hn, rfl⟩
    have htens : n / 10 < 16 := by omega
    have hones : n % 10 < 16 := by omega
    rw [bcdInv, highNibble_packed htens hones, lowNibble_packed htens hones]
    omega
  · rintro ⟨hhigh, hlow, hn⟩
    rw [bcdInv] at hn
    have htens : n / 10 = highNibble b := by omega
    have hones : n % 10 = lowNibble b := by omega
    exact ⟨by omega, by rw [htens, hones, packed_nibbles]⟩

theorem bcd_digit {n : Nat} (h : n ≤ 9) : bcd n = .ok (BitVec.ofNat 8 n) := by
  have hbyte : (BitVec.ofNat 8 n).toNat = n := Nat.mod_eq_of_lt (by omega)
  rw [bcd_eq_ok_iff_bcdInv, bcdInv, highNibble_eq_div, lowNibble_eq_mod, hbyte]
  omega

/-- Settles O6: `bcd` packs two decimal digits and `bcdInv` reads them back; above 99 it faults. -/
theorem bcdIsBijectiveOnDecimalBytes : Obligations.BcdIsBijectiveOnDecimalBytes :=
  ⟨bcd_eq_ok_iff_bcdInv, fun _ => bcd_digit, fun _ => bcd_eq_error_of_lt⟩

/-- Settles O7: the status byte is a function of the motor and the activity, with six values. -/
theorem statusByteValues : Obligations.StatusByteValues := by
  intro S
  unfold status
  cases S.motorState <;> cases S.driveState <;> exact ⟨rfl, rfl⟩

/-- Under an injective CAUSE_CODE the wire form tells the cause and the bytes. -/
theorem cause_and_bytes_of_wireWith_eq {E : Encodings} (hcause : Function.Injective E.cause) {d e : Delivery}
    (h : d.wireWith E = e.wireWith E) : d.cause = e.cause ∧ d.bytes = e.bytes := by
  obtain ⟨hcode, hbytes⟩ := Prod.mk.inj h
  exact ⟨hcause hcode, hbytes⟩

/-- Settles O8: the five codes are the table's, and the default CAUSE_CODE is injective. -/
theorem deliveryCarriesCauseCode : Obligations.DeliveryCarriesCauseCode :=
  ⟨fun _ _ => ⟨rfl, rfl, rfl, rfl, rfl⟩, fun _ _ => cause_and_bytes_of_wireWith_eq (E := .default) causeCode_injective⟩

/-- Settles O48: the wire form is the code and the bytes, and a legal CAUSE_CODE is injective. -/
theorem legalCauseCodeDeterminesCause : Obligations.LegalCauseCodeDeterminesCause :=
  ⟨fun _ _ => rfl, fun _ _ _ hlegal => cause_and_bytes_of_wireWith_eq hlegal.cause⟩

/-! ### What the handlers answer, under any encodings -/

section handlers

variable {E : Encodings} {S : DriveRegs}

theorem handleGetTN_of_bcd_ok {d : Disc} {last : Byte} (hd : S.disc = some d) (hp : d.isPresent = true)
    (hlast : bcd (d.trackCount + 1) = .ok last) :
    handleGetTN E S =
      .ok (S, [pkt E .acknowledge [statusWith E S, firstTrack, last] Config.dFirst .getTrackCount]) := by
  rw [handleGetTN_disc hd hp, hlast]

theorem handleGetTN_of_bcd_error {d : Disc} {f : IssueFault} (hd : S.disc = some d) (hp : d.isPresent = true)
    (hf : bcd (d.trackCount + 1) = .error f) : handleGetTN E S = .error f := by
  rw [handleGetTN_disc hd hp, hf]

theorem handleGetID_disc (h : discMounted S = true) :
    handleGetID E S = .ok (S, [pkt E .acknowledge [statusWith E S] delayGetIdHead .getId,
      pkt E .complete (statusWith E S :: licensedTail) Config.dSecond .getId]) := by
  simp [handleGetID, h]

theorem handleGetID_noDisc (h : discMounted S = false) :
    handleGetID E S = .ok (S, [pkt E .acknowledge [statusWith E S] delayGetIdHead .getId,
      pkt E .error noDisc Config.dSecond .getId]) := by
  simp [handleGetID, h]

theorem discMounted_eq_false_iff : discMounted S = false ↔ ¬ ∃ d, S.disc = some d ∧ d.isPresent = true := by
  rw [← discMounted_iff, Bool.not_eq_true]

end handlers

/-- Settles O46: each handler's answer is its definition; get-track-count and get-id ask the disc first. -/
theorem handlersSnapshotAnyStatusEncoding : Obligations.HandlersSnapshotAnyStatusEncoding := by
  intro E S
  refine ⟨rfl, rfl, rfl, rfl, fun _ => rfl, fun d hd hp hcount => ?_, fun d hd hp => ?_, fun hnone => ?_,
    rfl, fun _ _ _ => rfl, rfl, fun _ => rfl, rfl, rfl⟩
  · obtain ⟨last, hlast, -⟩ := bcdEncodesTwoDigits (d.trackCount + 1) (by omega)
    exact ⟨last, hlast, handleGetTN_of_bcd_ok hd hp hlast⟩
  · exact handleGetID_disc ((discMounted_iff S).mpr ⟨d, hd, hp⟩)
  · exact handleGetID_noDisc (discMounted_eq_false_iff.mpr hnone)

/-- Settles O45: the parametric block at the defaults is the machine, and both default maps are injective. -/
theorem machineIsParametricBlockAtDefaults : Obligations.MachineIsParametricBlockAtDefaults :=
  ⟨step_eq, opcodeMap_injective, causeCode_injective⟩

/-! ### The commands: each completes with this next state -/

theorem exec_eq_afterIssue {i : Instr} {s : State} {S' : DriveRegs} {chain : List Packet}
    (h : execute i s.drive = .ok (S', chain)) : exec i s = .next (afterIssue s S' chain) := by
  rw [exec_eq, h, finishIssue_ok]

/-- Settles O42: the installed chain replaces the queue, whatever it was. -/
theorem successfulIssueForgetsOldChain : Obligations.SuccessfulIssueForgetsOldChain := by
  intro i s q S' chain h
  have hother : exec i { s with queue := q } = .next (afterIssue { s with queue := q } S' chain) := exec_eq_afterIssue h
  rw [hother, exec_eq_afterIssue h]
  rfl

/-- Settles O10: the three handlers answer one snapshot and write nothing. -/
theorem getstatPlayDemuteAcknowledge : Obligations.GetstatPlayDemuteAcknowledge :=
  fun _ => ⟨exec_eq_afterIssue rfl, exec_eq_afterIssue rfl, exec_eq_afterIssue rfl⟩

/-- Settles O11: FIRMWARE_ID is a vector of four bytes. -/
theorem biosDateReturnsFirmwareId : Obligations.BiosDateReturnsFirmwareId :=
  ⟨Config.firmwareId.length_toList, fun _ => exec_eq_afterIssue rfl⟩

/-- Settles O12, by whether a disc is mounted. -/
theorem getIdReportsDisc : Obligations.GetIdReportsDisc := by
  intro s
  refine ⟨fun d hd hp => exec_eq_afterIssue ?_, fun hnone => exec_eq_afterIssue ?_⟩
  · exact handleGetID_disc ((discMounted_iff s.drive).mpr ⟨d, hd, hp⟩)
  · exact handleGetID_noDisc (discMounted_eq_false_iff.mpr hnone)

/-- Settles O13: both snapshots are taken after the write. -/
theorem initTurnsMotorOn : Obligations.InitTurnsMotorOn := fun _ => exec_eq_afterIssue rfl

/-- Settles O14: the status byte reads none of the fields written. -/
theorem setlocStoresTargetAndClears : Obligations.SetlocStoresTargetAndClears := fun _ _ _ _ => exec_eq_afterIssue rfl

/-- Settles O15: the Complete keeps the snapshot taken before the write. -/
theorem seekReportsEarlierStatusInComplete : Obligations.SeekReportsEarlierStatusInComplete :=
  fun _ => exec_eq_afterIssue rfl

/-- Settles O16: the status byte does not read the mode. -/
theorem setmodeStoresModeByte : Obligations.SetmodeStoresModeByte := fun _ _ => exec_eq_afterIssue rfl

/-- Settles O17: both packets share the snapshot taken after the writes. -/
theorem readEntersReadAndAnnouncesData : Obligations.ReadEntersReadAndAnnouncesData := fun _ => exec_eq_afterIssue rfl

/-- Settles O18: the Acknowledge keeps the snapshot taken before the writes. -/
theorem pauseReturnsToIdle : Obligations.PauseReturnsToIdle := fun _ => exec_eq_afterIssue rfl

/-- Settles O21: the handler reads neither the track nor the disc. -/
theorem trackPositionIsFixed : Obligations.TrackPositionIsFixed := fun _ _ => exec_eq_afterIssue rfl

/-- Settles O19: a track count of at most 98 leaves `bcd` in range. -/
theorem trackCountReportsCountPlusOne : Obligations.TrackCountReportsCountPlusOne := by
  intro s d hd hp hcount
  obtain ⟨last, hlast, -, hhigh, hlow⟩ := bcdEncodesTwoDigits (d.trackCount + 1) (by omega)
  exact ⟨last, hhigh, hlow, exec_eq_afterIssue (handleGetTN_of_bcd_ok hd hp hlast)⟩

/-- Settles O20: both faults stop the handler before it answers a chain, and only the fault is recorded. -/
theorem trackCountFaultsLeaveStateUnchanged : Obligations.TrackCountFaultsLeaveStateUnchanged := by
  intro s
  refine ⟨fun hnone => exec_of_execute_error ?_, fun d hd hp hcount => exec_of_execute_error ?_⟩
  · exact handleGetTN_noDisc hnone
  · exact handleGetTN_of_bcd_error hd hp (bcd_eq_error_of_lt (by omega))

/-! ### Which fault an Issue reports (spec/60_exceptions.md R267) -/

theorem issueResult_of_decode_ok {r : RawCommand} {i : Instr} (h : decode r = .ok i) (S : DriveRegs) :
    issueResult S r = execute i S := by
  rw [issueResult_eq, h]
  rfl

theorem issueResult_of_decode_error {r : RawCommand} {f : IssueFault} (h : decode r = .error f) (S : DriveRegs) :
    issueResult S r = .error f := by
  rw [issueResult_eq, h]
  rfl

theorem decode_ok_of_issueResult_ok {S S' : DriveRegs} {r : RawCommand} {chain : List Packet}
    (h : issueResult S r = .ok (S', chain)) : ∃ i, decode r = .ok i ∧ execute i S = .ok (S', chain) := by
  cases hdecode : decode r with
  | error f => rw [issueResult_of_decode_error hdecode] at h; cases h
  | ok i => exact ⟨i, rfl, issueResult_of_decode_ok hdecode S ▸ h⟩

theorem commandOf_eq_none {m : Command → Byte} {op : Byte} (h : ∀ c, m c ≠ op) : commandOf m op = none := by
  rw [Option.eq_none_iff_forall_ne_some]
  exact fun c hc => h c (opcode_of_commandOf hc)

theorem decode_opcodeMap (c : Command) (ps : List Byte) :
    decode ⟨opcodeMap c, ps⟩ = if ps.length = arity c then applyParams c (opcodeMap c) ps
      else .error (.malformedParameters (opcodeMap c) ps.length) :=
  decodeWith_of_commandOf_some (r := ⟨opcodeMap c, ps⟩) (commandOf_opcode opcodeMap_injective c)

/-- get-track-count is the only handler that can fault. -/
theorem execute_ok_of_ne_getTN {i : Instr} (h : i ≠ .getTN) (S : DriveRegs) :
    ∃ S' chain, execute i S = .ok (S', chain) := by
  cases i with
  | getTN => exact absurd rfl h
  | _ => exact ⟨_, _, rfl⟩

theorem eq_getTN_of_command {i : Instr} (h : i.command = .getTrackCount) : i = .getTN := by
  cases i <;> simp_all [Instr.command]

theorem params_of_command_getBiosDate {i : Instr} (h : i.command = .getBiosDate) : i.params = [0x20] := by
  cases i <;> simp_all [Instr.command, Instr.params, biosDateSub]

theorem issueResult_of_opcode_unknown {op : Byte} (h : ∀ c, opcodeMap c ≠ op) (ps : List Byte) (S : DriveRegs) :
    issueResult S ⟨op, ps⟩ = .error (.unsupportedCommand op) :=
  issueResult_of_decode_error (decodeWith_of_commandOf_none (r := ⟨op, ps⟩) (commandOf_eq_none h)) S

theorem issueResult_of_length_ne {c : Command} {ps : List Byte} (h : ps.length ≠ arity c) (S : DriveRegs) :
    issueResult S ⟨opcodeMap c, ps⟩ = .error (.malformedParameters (opcodeMap c) ps.length) :=
  issueResult_of_decode_error ((decode_opcodeMap c ps).trans (if_neg h)) S

/-- With the right parameter count only Test's sub-function is left to refuse; else the instruction's handler answers. -/
theorem issueResult_of_length_eq {c : Command} {ps : List Byte} (h : ps.length = arity c) (S : DriveRegs) :
    (c = .getBiosDate ∧ ps ≠ [0x20] ∧ issueResult S ⟨opcodeMap c, ps⟩ = .error (.unsupportedCommand (opcodeMap c))) ∨
    (∃ i, c = i.command ∧ ps = i.params ∧ issueResult S ⟨opcodeMap c, ps⟩ = execute i S) := by
  have hdecode := (decode_opcodeMap c ps).trans (if_pos h)
  obtain ⟨i, hi⟩ | ⟨hc, hne, hbad⟩ := applyParams_of_length (op := opcodeMap c) h
  · obtain ⟨hc, hps⟩ := eq_of_applyParams_ok hi
    exact .inr ⟨i, hc, hps, issueResult_of_decode_ok (hdecode.trans hi) S⟩
  · exact .inl ⟨hc, hne, issueResult_of_decode_error (hdecode.trans hbad) S⟩

/-- Everything get-track-count answers, by the disc: none mounted, too many tracks, or a track count in range. -/
theorem execute_getTN_cases (S : DriveRegs) :
    ((¬ ∃ d, S.disc = some d ∧ d.isPresent = true) ∧ execute .getTN S = .error (.noDiscMounted 0x13)) ∨
    (∃ d, S.disc = some d ∧ d.isPresent = true ∧
      ((99 ≤ d.trackCount ∧ execute .getTN S = .error (.bcdOutOfRange (d.trackCount + 1))) ∨
       (d.trackCount ≤ 98 ∧ ∃ S' chain, execute .getTN S = .ok (S', chain)))) := by
  by_cases hmounted : ∃ d, S.disc = some d ∧ d.isPresent = true
  case neg => exact .inl ⟨hmounted, handleGetTN_noDisc hmounted⟩
  obtain ⟨d, hd, hp⟩ := hmounted
  refine .inr ⟨d, hd, hp, ?_⟩
  by_cases hcount : d.trackCount ≤ 98
  · obtain ⟨last, hlast, -⟩ := bcdEncodesTwoDigits (d.trackCount + 1) (by omega)
    exact .inr ⟨hcount, _, _, handleGetTN_of_bcd_ok hd hp hlast⟩
  · exact .inl ⟨by omega, handleGetTN_of_bcd_error hd hp (bcd_eq_error_of_lt (by omega))⟩

/-- Settles O4, by the command of the opcode: the parameter checks answer an instruction of it, whose handler answers unless it is
get-track-count's. -/
theorem issueFaultsInPriorityOrder : Obligations.IssueFaultsInPriorityOrder := by
  intro S op ps legal count
  by_cases hop : ∀ c, opcodeMap c ≠ op
  case pos =>
    have hsub : legal ⊆ allCommands.map opcodeMap := by decide
    have hillegal : op ∉ legal := fun hmem => by
      obtain ⟨c, -, hc⟩ := List.mem_map.mp (hsub hmem)
      exact hop c hc
    rw [if_pos hillegal]
    exact issueResult_of_opcode_unknown hop ps S
  obtain ⟨c, rfl⟩ := not_forall_not.mp hop
  have hlegal : opcodeMap c ∈ legal := by cases c <;> decide
  have hcount : count = arity c := by cases c <;> rfl
  have htest : opcodeMap c = 0x19 ↔ c = .getBiosDate := opcodeMap_injective.eq_iff (b := .getBiosDate)
  have hgetTN : opcodeMap c = 0x13 ↔ c = .getTrackCount := opcodeMap_injective.eq_iff (b := .getTrackCount)
  rw [if_neg (not_not.mpr hlegal), hcount]
  simp only [htest, hgetTN]
  by_cases hlen : ps.length = arity c
  case neg =>
    rw [if_pos hlen]
    exact issueResult_of_length_ne hlen S
  rw [if_neg (not_not.mpr hlen)]
  obtain ⟨rfl, hne, hbad⟩ | ⟨i, rfl, rfl, hresult⟩ := issueResult_of_length_eq hlen S
  case inl => rwa [if_pos ⟨rfl, hne⟩]
  rw [hresult, if_neg fun h => h.2 (params_of_command_getBiosDate h.1)]
  by_cases hi : i = .getTN
  case neg =>
    have hcommand : i.command ≠ .getTrackCount := fun h => hi (eq_getTN_of_command h)
    rw [if_neg fun h => hcommand h.1, if_neg fun h => hcommand h.1]
    exact execute_ok_of_ne_getTN hi S
  subst hi
  obtain ⟨hnone, hfault⟩ | ⟨d, hd, hp, ⟨hlarge, hfault⟩ | ⟨hrange, hok⟩⟩ := execute_getTN_cases S
  · rwa [if_pos ⟨rfl, hnone⟩]
  · rw [if_neg fun h => h.2 ⟨d, hd, hp⟩, if_pos ⟨rfl, d, hd, hlarge⟩]
    exact ⟨d, hd, hfault⟩
  · have hsmall : ¬ ∃ e, S.disc = some e ∧ 99 ≤ e.trackCount := by
      rintro ⟨e, he, hlarge⟩
      obtain rfl := Option.some.inj (hd.symm.trans he)
      omega
    rwa [if_neg fun h => h.2 ⟨d, hd, hp⟩, if_neg fun h => hsmall h.2]

/-! ### The packets of a chain, and who writes `S` (spec/10_state.md R34, R35, spec/20_memory.md R54, R56) -/

/-- Every packet keeps its command's opcode byte and has a legal response length, under any encodings. -/
theorem command_and_length_of_executeWith_ok {E : Encodings} {i : Instr} {S S' : DriveRegs} {chain : List Packet}
    (h : executeWith E i S = .ok (S', chain)) :
    ∀ p ∈ chain, p.command = E.opcode i.command ∧ p.response.length ∈ responseLengths := by
  cases i with
  | getTN =>
    obtain ⟨-, last, rfl⟩ := handleGetTN_ok h
    simp [pkt, Instr.command, responseLengths]
  | getID =>
    cases hdisc : discMounted S with
    | true => cases (handleGetID_disc hdisc).symm.trans h; simp [pkt, Instr.command, licensedTail, responseLengths]
    | false => cases (handleGetID_noDisc hdisc).symm.trans h; simp [pkt, Instr.command, noDisc, responseLengths]
  | test20 => cases h; simp [pkt, Instr.command, firmwareBytes, responseLengths]
  | getTD => cases h; simp [pkt, Instr.command, startOfDisc, responseLengths]
  | _ => cases h; simp [pkt, Instr.command, responseLengths]

/-- A chain is an Acknowledge and at most one more packet. -/
theorem chain_of_executeWith_ok {E : Encodings} {i : Instr} {S S' : DriveRegs} {chain : List Packet}
    (h : executeWith E i S = .ok (S', chain)) :
    ∃ p rest, chain = p :: rest ∧ p.cause = .acknowledge ∧ rest.length ≤ 1 := by
  obtain ⟨later, hcauses, hlater⟩ := causes_of_executeWith_ok h
  obtain ⟨p, rest, rfl, hp, rfl⟩ := List.map_eq_cons_iff.mp hcauses
  refine ⟨p, rest, rfl, hp, ?_⟩
  rw [← List.length_map (f := Packet.cause)]
  obtain h | h | h | h := hlater <;> simp [h]

/-- Settles O22, from the causes of a chain and from its packets. -/
theorem chainIsAcknowledgeThenAtMostOne : Obligations.ChainIsAcknowledgeThenAtMostOne := by
  intro i S S' chain h
  obtain ⟨p, rest, hchain, hp, hrest⟩ := chain_of_executeWith_ok h
  exact ⟨p, rest, hchain, hp, hrest, command_and_length_of_executeWith_ok h⟩

theorem driveWrites_idempotent (i : Instr) (S : DriveRegs) : driveWrites i (driveWrites i S) = driveWrites i S := by
  cases i <;> rfl

theorem exec_drive {i : Instr} {s t : State} (h : exec i s = .next t) : t.drive = driveWrites i s.drive := by
  obtain rfl := next_inj ((exec_eq i s).symm.trans h)
  rw [finishIssue_drive, driveAfter_execute]

/-- Settles O23: the writers' table is idempotent, and names none of the seven commands. -/
theorem commandsAreIdempotentOnDriveState : Obligations.CommandsAreIdempotentOnDriveState := by
  constructor
  · intro i s t u ht hu
    rw [exec_drive hu, exec_drive ht, driveWrites_idempotent]
  · intro i s t hi ht
    rw [exec_drive ht]
    obtain hi | ⟨k, rfl⟩ := hi
    · simp only [List.mem_cons, List.not_mem_nil, or_false] at hi
      obtain rfl | rfl | rfl | rfl | rfl | rfl := hi <;> rfl
    · rfl

/-- Settles O33, by the writers' table of the step. -/
theorem otherFieldsHaveOnlyTheirWriters : Obligations.OtherFieldsHaveOnlyTheirWriters := by
  intro s t h
  cases hi : nextInstr s with
  | none => simp [step_drive_of_nextInstr_none h hi]
  | some i =>
    rw [step_drive_of_nextInstr h hi]
    cases i <;> exact ⟨rfl, rfl, rfl, rfl, rfl, rfl, rfl⟩

/-! ### Reset and the run invariant -/

/-- Settles O35: the reset state, field by field. -/
theorem resetLeavesSpecValues : Obligations.ResetLeavesSpecValues := ⟨rfl, rfl, rfl, rfl, rfl, rfl⟩

/-- Settles O36: the step is the Issue of get-stat, whose status byte at reset is 0x00. -/
theorem firstGetstatReportsOffIdle : Obligations.FirstGetstatReportsOffIdle := by
  intro rest
  have hstatus : status State.reset.drive = 0x00 := (statusByteValues State.reset.drive).1
  rw [← hstatus]
  exact (step_issue _ _ rest rfl).trans
    ((issue_of_decode_ok (decode_encode .getstat) _).trans (exec_eq_afterIssue rfl))

/-- Settles O37: nothing is pending and nothing is delivered at reset. -/
theorem resetMeetsInvariant : Obligations.ResetMeetsInvariant where
  settled := trivial
  short := Nat.zero_le 2
  packets := by simp [State.reset]
  streaming := ⟨rfl, rfl, rfl⟩
  delivered := by simp [State.reset]
  ordered := List.Pairwise.nil

/-- set-loc, the only writer of the streaming fields, writes their reset values (R30). -/
theorem streamingAtReset_driveWrites {S : DriveRegs} (h : StreamingAtReset S) (i : Instr) :
    StreamingAtReset (driveWrites i S) := by
  cases i with
  | setloc => exact ⟨rfl, rfl, rfl⟩
  | _ => exact h

/-- Installing a legal chain over legal deliveries keeps the invariant: the due heads join the deliveries at the present time,
the latest of all. -/
theorem inv_afterIssue {s : State} {S' : DriveRegs} {chain : List Packet} (hshort : chain.length ≤ 2)
    (hpackets : ∀ p ∈ chain, p.cause ≠ .dataEnd ∧ p.response.length ∈ responseLengths)
    (hstreaming : StreamingAtReset S')
    (hdelivered : ∀ d ∈ s.out, d.cause ≠ .dataEnd ∧ d.bytes.length ∈ responseLengths ∧ d.time ≤ s.now)
    (hordered : s.out.Pairwise fun d e => d.time ≤ e.time) : Inv (afterIssue s S' chain) where
  settled := settled_dropWhile_due chain
  short := (List.dropWhile_suffix due).length_le.trans hshort
  packets := fun p hp => hpackets p ((List.dropWhile_suffix due).subset hp)
  streaming := hstreaming
  delivered := by
    intro d hd
    rcases List.mem_append.mp hd with hd | hd
    · exact hdelivered d hd
    · obtain ⟨p, hp, rfl⟩ := List.mem_map.mp hd
      obtain ⟨hcause, hlength⟩ := hpackets p ((List.takeWhile_prefix due).subset hp)
      exact ⟨hcause, hlength, le_rfl⟩
  ordered := by
    refine List.pairwise_append.mpr ⟨hordered, ?_, fun d hd e he => ?_⟩
    · exact List.pairwise_map.mpr (List.pairwise_of_forall fun _ _ => le_rfl)
    · obtain ⟨p, -, rfl⟩ := List.mem_map.mp he
      exact (hdelivered d hd).2.2

theorem length_countDown (q : List Packet) : (countDown q).length = q.length := by
  cases q <;> rfl

/-- Counting down changes no cause and no response. -/
theorem forall_mem_countDown {P : Cause → List Byte → Prop} {q : List Packet}
    (h : ∀ p ∈ q, P p.cause p.response) : ∀ p ∈ countDown q, P p.cause p.response := by
  cases q with
  | nil => simp
  | cons p q => simpa using h

theorem inv_tick {s : State} (h : Inv s) : Inv (tick s) := by
  rw [tick_eq]
  refine inv_afterIssue ((length_countDown s.queue).trans_le h.short) ?_ h.streaming (fun d hd => ?_) h.ordered
  · exact forall_mem_countDown (P := fun cause bytes => cause ≠ .dataEnd ∧ bytes.length ∈ responseLengths) h.packets
  · obtain ⟨hcause, hlength, htime⟩ := h.delivered d hd
    exact ⟨hcause, hlength, Nat.le_succ_of_le htime⟩

/-- A successful Issue installs a handler's chain, whose packets are legal whatever `S` holds. -/
theorem inv_of_issueResult_ok {s : State} {r : RawCommand} {S' : DriveRegs} {chain : List Packet} (h : Inv s)
    (hresult : issueResult s.drive r = .ok (S', chain)) : Inv (afterIssue s S' chain) := by
  obtain ⟨i, -, hexecute⟩ := decode_ok_of_issueResult_ok hresult
  have hdrive : S' = driveWrites i s.drive := by rw [← driveAfter_execute, hexecute, driveAfter_ok]
  obtain ⟨p, rest, hchain, -, hrest⟩ := chain_of_executeWith_ok hexecute
  refine inv_afterIssue ?_ (fun q hq => ?_) ?_ h.delivered h.ordered
  · rw [hchain, List.length_cons]; omega
  · exact ⟨cause_ne_dataEnd_of_executeWith_ok hexecute hq, (command_and_length_of_executeWith_ok hexecute q hq).2⟩
  · rw [hdrive]
    exact streamingAtReset_driveWrites h.streaming i

/-- The invariant speaks of no pending input and of no recorded fault. -/
theorem Inv.of_eq {s t : State} (h : Inv s) (hdrive : t.drive = s.drive) (hqueue : t.queue = s.queue)
    (hout : t.out = s.out) (hnow : t.now = s.now) : Inv t where
  settled := hqueue ▸ h.settled
  short := hqueue ▸ h.short
  packets := hqueue ▸ h.packets
  streaming := hdrive ▸ h.streaming
  delivered := by rw [hout, hnow]; exact h.delivered
  ordered := hout ▸ h.ordered

/-- Settles O38, by what a step can do: a Tick, a faulting Issue, or a successful Issue. -/
theorem stepKeepsInvariant : Obligations.StepKeepsInvariant := by
  intro s t h hstep
  obtain rfl := eq_stepped_of_step hstep
  have htake : Inv { s with input := s.input.tail } := h.of_eq rfl rfl rfl rfl
  obtain ⟨-, htick⟩ | ⟨r, f, -, -, hfault⟩ | ⟨r, S', chain, -, hresult, hok⟩ := stepped_cases s
  · rw [htick]
    exact inv_tick htake
  · rw [hfault]
    exact htake.of_eq rfl rfl rfl rfl
  · rw [hok]
    exact inv_of_issueResult_ok htake hresult

/-! ### What a step does to the clock, the histories and the pending input -/

theorem nextIsTick_of_head?_issue {s : State} {r : RawCommand} (h : s.input.head? = some (.issue r)) :
    nextIsTick s = false := by
  obtain ⟨rest, hinput⟩ := List.head?_eq_some_iff.mp h
  simp [nextIsTick, hinput]

@[simp] theorem stepped_input (s : State) : (stepped s).input = s.input.tail := by
  obtain ⟨-, htick⟩ | ⟨r, f, -, -, hfault⟩ | ⟨r, S', chain, -, -, hok⟩ := stepped_cases s
  · simp [htick]
  · simp [hfault]
  · simp [hok]

theorem stepped_now (s : State) : (stepped s).now = if nextIsTick s = true then s.now + 1 else s.now := by
  obtain ⟨h, htick⟩ | ⟨r, f, h, -, hfault⟩ | ⟨r, S', chain, h, -, hok⟩ := stepped_cases s
  · simp [htick, h]
  · simp [hfault, nextIsTick_of_head?_issue h]
  · simp [hok, nextIsTick_of_head?_issue h]

/-- No step withdraws a delivery or a recorded fault. -/
theorem histories_stepped (s : State) : s.out <+: (stepped s).out ∧ s.faults <+: (stepped s).faults := by
  obtain ⟨-, htick⟩ | ⟨r, f, -, -, hfault⟩ | ⟨r, S', chain, -, -, hok⟩ := stepped_cases s
  · simp [htick]
  · simp [hfault]
  · simp [hok]

/-- Settles O34: each history grows by a suffix, and the clock advances on a Tick alone. -/
theorem historiesOnlyGrow : Obligations.HistoriesOnlyGrow := by
  intro s t h
  obtain rfl := eq_stepped_of_step h
  obtain ⟨hout, hfaults⟩ := histories_stepped s
  exact ⟨hout, hfaults, stepped_now s, fun hfree => List.prefix_nil.mp (hfree ▸ hfaults)⟩

/-! ### Runs as iterated steps -/

theorem run_eq_iterate (n : Nat) (s : State) : Sys2Proof.core.run n s = .next (stepped^[n] s) := by
  induction n generalizing s with
  | zero => rfl
  | succ n ih => rw [run_succ, ih, Function.iterate_succ_apply]

theorem mem_take_succ_of_mem_head? {α : Type} {l : List α} {x : α} (n : Nat) (h : x ∈ l.head?) :
    x ∈ l.take (n + 1) := by
  obtain ⟨rest, rfl⟩ := List.head?_eq_some_iff.mp h
  simp

theorem mem_take_succ_of_mem_take_tail {α : Type} {l : List α} {x : α} {n : Nat} (h : x ∈ l.tail.take n) :
    x ∈ l.take (n + 1) := by
  cases l with
  | nil => simp at h
  | cons y rest => exact List.mem_cons_of_mem y h

/-- What every step keeps between two runs, any number of steps keeps. -/
theorem iterate_stepped_rel {R : State → State → Prop} (hstep : ∀ s s', R s s' → R (stepped s) (stepped s'))
    (n : Nat) {s s' : State} (h : R s s') : R (stepped^[n] s) (stepped^[n] s') := by
  induction n generalizing s s' with
  | zero => exact h
  | succ n ih => exact ih (hstep s s' h)

/-- The clock after `n` steps: the pending Ticks among them, and one for each step beyond the pending input (log 1). -/
theorem now_iterate_stepped (n : Nat) (s : State) :
    (stepped^[n] s).now = s.now + (n - (s.input.take n).length) + (s.input.take n).count .tick := by
  induction n generalizing s with
  | zero => simp
  | succ n ih =>
    rw [Function.iterate_succ_apply, ih, stepped_input, stepped_now]
    rcases hinput : s.input with _ | ⟨_ | _, rest⟩
    · simp [nextIsTick, hinput]; omega
    · simp [nextIsTick, hinput]
    · simp [nextIsTick, hinput]; omega

/-! ### The pending chain's schedule (spec/44_response_scheduler.md R237) -/

/-- From `s` to `t` the pending chain kept its schedule: what is due at `t` was delivered, the rest is still promised, and `S` was
not written. -/
structure OnSchedule (s t : State) : Prop where
  drive : t.drive = s.drive
  settled : Settled t.queue
  now_le : s.now ≤ t.now
  delivered : ∃ gone, t.out = s.out ++ gone ∧ schedule s.now s.queue = gone ++ schedule t.now t.queue ∧
    ∀ d ∈ gone, d.time ≤ t.now

/-- What leaves `S`, the queue, the deliveries and the clock as they are keeps the schedule. -/
theorem onSchedule_of_eq {s t : State} (h : Settled s.queue) (hdrive : t.drive = s.drive) (hqueue : t.queue = s.queue)
    (hout : t.out = s.out) (hnow : t.now = s.now) : OnSchedule s t :=
  ⟨hdrive, hqueue ▸ h, hnow.ge, [], by simp [hout], by simp [hqueue, hnow], by simp⟩

theorem OnSchedule.trans {s t u : State} (hst : OnSchedule s t) (htu : OnSchedule t u) : OnSchedule s u := by
  obtain ⟨gone, hout, hsched, hdue⟩ := hst.delivered
  obtain ⟨gone', hout', hsched', hdue'⟩ := htu.delivered
  refine ⟨htu.drive.trans hst.drive, htu.settled, hst.now_le.trans htu.now_le, gone ++ gone', ?_, ?_, ?_⟩
  · rw [hout', hout, List.append_assoc]
  · rw [hsched, hsched', List.append_assoc]
  · intro d hd
    rcases List.mem_append.mp hd with hd | hd
    · exact (hdue d hd).trans htu.now_le
    · exact hdue' d hd

/-- Installing a chain delivers its due heads now and keeps the rest on the schedule it has from now. -/
theorem onSchedule_afterIssue (s : State) (chain : List Packet) :
    OnSchedule { s with queue := chain } (afterIssue s s.drive chain) :=
  ⟨rfl, settled_dropWhile_due chain, le_rfl, _, rfl, (schedule_split_due s.now chain).symm, by simp [deliveryAt]⟩

/-- A Tick keeps the schedule of a settled queue: it counts the head down as the clock goes on. -/
theorem onSchedule_tick {s : State} (h : Settled s.queue) : OnSchedule s (tick s) := by
  obtain ⟨hdrive, hsettled, -, hdelivered⟩ := onSchedule_afterIssue { s with now := s.now + 1 } (countDown s.queue)
  rw [← tick_eq] at hdrive hsettled hdelivered
  refine ⟨hdrive, hsettled, by simp, ?_⟩
  rwa [← schedule_countDown s.now s.queue h]

/-- A step that issues nothing successfully keeps the schedule (R265, R305). -/
theorem onSchedule_stepped {s : State} (hsettled : Settled s.queue)
    (hfaults : ∀ r, s.input.head? = some (.issue r) → ∃ f, issueResult s.drive r = .error f) :
    OnSchedule s (stepped s) := by
  obtain ⟨-, htick⟩ | ⟨r, f, -, -, hfault⟩ | ⟨r, S', chain, hhead, hresult, -⟩ := stepped_cases s
  · rw [htick]
    have htake : OnSchedule s { s with input := s.input.tail } := onSchedule_of_eq hsettled rfl rfl rfl rfl
    exact htake.trans (onSchedule_tick hsettled)
  · rw [hfault]
    exact onSchedule_of_eq hsettled rfl rfl rfl rfl
  · obtain ⟨f, hf⟩ := hfaults r hhead
    rw [hresult] at hf
    cases hf

/-- Any number of steps that issue nothing successfully keep the schedule. -/
theorem onSchedule_iterate (n : Nat) {s : State} (hsettled : Settled s.queue)
    (hfaults : ∀ r, Stimulus.issue r ∈ s.input.take n → ∃ f, issueResult s.drive r = .error f) :
    OnSchedule s (stepped^[n] s) := by
  induction n generalizing s with
  | zero => exact onSchedule_of_eq hsettled rfl rfl rfl rfl
  | succ n ih =>
    have hfirst : OnSchedule s (stepped s) :=
      onSchedule_stepped hsettled fun r hhead => hfaults r (mem_take_succ_of_mem_head? n hhead)
    refine hfirst.trans (ih hfirst.settled fun r hr => ?_)
    rw [hfirst.drive]
    rw [stepped_input] at hr
    exact hfaults r (mem_take_succ_of_mem_take_tail hr)

section OnSchedule

variable {s t : State} (h : OnSchedule s t)
include h

theorem OnSchedule.out_eq :
    t.out = s.out ++ (schedule s.now s.queue).filter fun d => d.time ≤ t.now := by
  obtain ⟨gone, hout, hsched, hdue⟩ := h.delivered
  have hgone : gone.filter (fun d => d.time ≤ t.now) = gone := List.filter_eq_self.mpr (by simpa using hdue)
  have hrest : (schedule t.now t.queue).filter (fun d => d.time ≤ t.now) = [] :=
    List.filter_eq_nil_iff.mpr (by simpa using lt_time_of_mem_schedule t.now t.queue h.settled)
  rw [hout, hsched, List.filter_append, hgone, hrest, List.append_nil]

theorem OnSchedule.schedule_eq :
    schedule t.now t.queue = (schedule s.now s.queue).filter fun d => t.now < d.time := by
  obtain ⟨gone, -, hsched, hdue⟩ := h.delivered
  have hgone : gone.filter (fun d => t.now < d.time) = [] := List.filter_eq_nil_iff.mpr (by simpa using hdue)
  have hrest : (schedule t.now t.queue).filter (fun d => t.now < d.time) = schedule t.now t.queue :=
    List.filter_eq_self.mpr (by simpa using lt_time_of_mem_schedule t.now t.queue h.settled)
  rw [hsched, List.filter_append, hgone, hrest, List.nil_append]

/-- Once the total delay has passed, everything is delivered and nothing is pending. -/
theorem OnSchedule.drained (htime : s.now + totalDelay s.queue ≤ t.now) :
    t.out = s.out ++ schedule s.now s.queue ∧ t.queue = [] := by
  have hdue : ∀ d ∈ schedule s.now s.queue, d.time ≤ t.now := fun d hd =>
    (time_le_of_mem_schedule s.now s.queue d hd).trans htime
  constructor
  · rw [h.out_eq, List.filter_eq_self.mpr (by simpa using hdue)]
  · have hnone : schedule t.now t.queue = [] := by
      rw [h.schedule_eq]
      exact List.filter_eq_nil_iff.mpr (by simpa using hdue)
    cases hq : t.queue with
    | nil => rfl
    | cons p q => simp [hq, schedule] at hnone

end OnSchedule

/-- Settles O40: each of the steps keeps the pending chain on its schedule. -/
theorem faultsDoNotDisturbPendingChain : Obligations.FaultsDoNotDisturbPendingChain := by
  intro n s hsettled hfaults
  have h := onSchedule_iterate n hsettled hfaults
  exact ⟨_, run_eq_iterate n s, h.drive, h.out_eq, h.schedule_eq⟩

/-- Settles O41: an idle environment's steps are Ticks, so the total delay passes and the schedule is drained. -/
theorem queueDrainsUnderTicks : Obligations.QueueDrainsUnderTicks := by
  intro s hsettled hidle
  have h := onSchedule_iterate (totalDelay s.queue) hsettled (by simp [hidle])
  obtain ⟨hout, hqueue⟩ := h.drained (by simp [now_iterate_stepped, hidle])
  exact ⟨_, run_eq_iterate _ s, hqueue, hout⟩

/-- Settles O39: the Issue installs the chain on its schedule from `t0`, and the steps after it keep it there. -/
theorem chainIsDeliveredOnSchedule : Obligations.ChainIsDeliveredOnSchedule := by
  intro n s r rest S' chain hinput hresult hfaults
  have hissue : stepped s = afterIssue { s with input := rest } S' chain := by
    refine (eq_stepped_of_step ?_).symm
    rw [step_issue s r rest hinput, issue_eq, hresult, finishIssue_ok]
  have hinstall : OnSchedule { s with input := rest, drive := S', queue := chain } (stepped s) :=
    hissue ▸ onSchedule_afterIssue { s with input := rest, drive := S' } chain
  have hrest := onSchedule_iterate n (s := stepped s) hinstall.settled (by simpa [hissue] using hfaults)
  have h := hinstall.trans hrest
  refine ⟨_, (run_succ n s).trans (run_eq_iterate n _), ?_, h.drive, h.out_eq, h.drained⟩
  simp [now_iterate_stepped, hissue]

/-! ### Noninterference: steps and answers of two runs side by side -/

theorem stepWith_of_input_nil {E : Encodings} {s : State} (h : s.input = []) : stepWith E s = tick s := by
  simp [stepWith, takeInput, h]

theorem stepWith_of_input_tick {E : Encodings} {s : State} {rest : List Stimulus} (h : s.input = .tick :: rest) :
    stepWith E s = tick { s with input := rest } := by
  simp [stepWith, takeInput, h]

theorem stepWith_of_input_issue {E : Encodings} {s : State} {r : RawCommand} {rest : List Stimulus}
    (h : s.input = .issue r :: rest) :
    stepWith E s = finishIssue { s with input := rest } (issueResultWith E s.drive r) := by
  simp [stepWith, takeInput, h]

/-- To relate two states after a step it is enough to relate a Tick, an Issue's end, and the taking of the pending input. -/
theorem stepWith_rel {R : State → State → Prop} {E E' : Encodings} (hinput : ∀ {s s'}, R s s' → s'.input = s.input)
    (htake : ∀ {s s'} (rest : List Stimulus), R s s' → R { s with input := rest } { s' with input := rest })
    (htick : ∀ {s s'}, R s s' → R (tick s) (tick s'))
    (hissue : ∀ {s s'} (r : RawCommand), R s s' →
      R (finishIssue s (issueResultWith E s.drive r)) (finishIssue s' (issueResultWith E' s'.drive r)))
    {s s' : State} (h : R s s') : R (stepWith E s) (stepWith E' s') := by
  have hsame := hinput h
  cases hi : s.input with
  | nil =>
    rw [stepWith_of_input_nil hi, stepWith_of_input_nil (hsame.trans hi)]
    exact htick h
  | cons x rest =>
    cases x with
    | tick =>
      rw [stepWith_of_input_tick hi, stepWith_of_input_tick (hsame.trans hi)]
      exact htick (htake rest h)
    | issue r =>
      rw [stepWith_of_input_issue hi, stepWith_of_input_issue (hsame.trans hi)]
      exact hissue r (htake rest h)

/-- Two answers alike: the same fault, or register files related by `R` and chains related by `P`. -/
inductive SameAnswer (R : DriveRegs → DriveRegs → Prop) (P : List Packet → List Packet → Prop) :
    HandlerResult → HandlerResult → Prop
  | ok {S T : DriveRegs} {chain chain' : List Packet} (drive : R S T) (chains : P chain chain') :
      SameAnswer R P (.ok (S, chain)) (.ok (T, chain'))
  | error (f : IssueFault) : SameAnswer R P (.error f) (.error f)

section SameAnswer

variable {R : DriveRegs → DriveRegs → Prop} {P : List Packet → List Packet → Prop} {E E' : Encodings} {S T : DriveRegs}

/-- get-track-count faults by the disc alone. -/
theorem sameAnswer_handleGetTN (hopcode : E'.opcode = E.opcode) (hdisc : T.disc = S.disc) (hR : R S T)
    (hP : ∀ last, P [pkt E .acknowledge [statusWith E S, firstTrack, last] Config.dFirst .getTrackCount]
      [pkt E' .acknowledge [statusWith E' T, firstTrack, last] Config.dFirst .getTrackCount]) :
    SameAnswer R P (handleGetTN E S) (handleGetTN E' T) := by
  by_cases hmounted : ∃ d, S.disc = some d ∧ d.isPresent = true
  · obtain ⟨d, hd, hp⟩ := hmounted
    have hd' : T.disc = some d := hdisc.trans hd
    rcases hlast : bcd (d.trackCount + 1) with f | last
    · rw [handleGetTN_of_bcd_error hd hp hlast, handleGetTN_of_bcd_error hd' hp hlast]
      exact .error f
    · rw [handleGetTN_of_bcd_ok hd hp hlast, handleGetTN_of_bcd_ok hd' hp hlast]
      exact .ok hR (hP last)
  · have hmounted' : ¬ ∃ d, T.disc = some d ∧ d.isPresent = true := hdisc ▸ hmounted
    rw [handleGetTN_noDisc hmounted, handleGetTN_noDisc hmounted', hopcode]
    exact .error _

/-- An Issue's decoding reads no state, so answers are alike when the handlers' are. -/
theorem sameAnswer_issueResultWith (hopcode : E'.opcode = E.opcode)
    (hexecute : ∀ i, SameAnswer R P (executeWith E i S) (executeWith E' i T)) (r : RawCommand) :
    SameAnswer R P (issueResultWith E S r) (issueResultWith E' T r) := by
  unfold issueResultWith
  rw [hopcode]
  cases decodeWith E.opcode r with
  | error f => exact .error f
  | ok i => exact hexecute i

end SameAnswer

/-! ### The inert fields reach no response (spec/10_state.md R35) -/

/-- Two register files alike in the fields that handlers read. -/
structure SameRead (S T : DriveRegs) : Prop where
  disc : T.disc = S.disc
  motorState : T.motorState = S.motorState
  driveState : T.driveState = S.driveState

/-- Handlers answer the same chain to register files that differ only in inert fields. -/
theorem sameAnswer_execute {S T : DriveRegs} (h : SameRead S T) (i : Instr) :
    SameAnswer SameRead Eq (execute i S) (execute i T) := by
  obtain ⟨disc, motor, activity⟩ := S
  obtain ⟨disc', motor', activity'⟩ := T
  obtain ⟨rfl, rfl, rfl⟩ := h
  cases i with
  | getTN => exact sameAnswer_handleGetTN rfl rfl ⟨rfl, rfl, rfl⟩ fun _ => rfl
  | _ => exact .ok ⟨rfl, rfl, rfl⟩ rfl

section SameButInert

variable {s s' : State} (h : SameButInert s s')
include h

theorem SameButInert.withInput (rest : List Stimulus) :
    SameButInert { s with input := rest } { s' with input := rest } where
  disc := h.disc
  motorState := h.motorState
  driveState := h.driveState
  queue := h.queue
  out := h.out
  now := h.now
  faults := h.faults
  input := rfl

theorem SameButInert.tick : SameButInert (tick s) (tick s') where
  disc := by simp [h.disc]
  motorState := by simp [h.motorState]
  driveState := by simp [h.driveState]
  queue := by simp [h.queue]
  out := by simp [h.out, h.queue, h.now]
  now := by simp [h.now]
  faults := by simp [h.faults]
  input := by simp [h.input]

theorem SameButInert.finishIssue {result result' : HandlerResult} (hanswer : SameAnswer SameRead Eq result result') :
    SameButInert (finishIssue s result) (finishIssue s' result') := by
  cases hanswer with
  | ok hdrive hchain =>
    subst hchain
    rw [finishIssue_ok, finishIssue_ok]
    exact ⟨hdrive.disc, hdrive.motorState, hdrive.driveState, rfl, by simp [h.out, h.now], h.now, h.faults, h.input⟩
  | error f =>
    rw [finishIssue_error, finishIssue_error]
    exact ⟨h.disc, h.motorState, h.driveState, h.queue, h.out, h.now, by simp [h.faults], h.input⟩

theorem SameButInert.stepped : SameButInert (stepped s) (stepped s') := by
  rw [stepped_eq_stepWith, stepped_eq_stepWith]
  refine stepWith_rel SameButInert.input (fun rest h => h.withInput rest) SameButInert.tick (fun r h => ?_) h
  exact h.finishIssue (sameAnswer_issueResultWith rfl (sameAnswer_execute ⟨h.disc, h.motorState, h.driveState⟩) r)

end SameButInert

/-- Settles O44: every step keeps the relation, so every run does. -/
theorem inertFieldsReachNoResponse : Obligations.InertFieldsReachNoResponse := by
  intro n s s' h
  refine ⟨_, _, run_eq_iterate n s, run_eq_iterate n s', ?_⟩
  exact iterate_stepped_rel (R := SameButInert) (fun _ _ => SameButInert.stepped) n h

/-! ### Deliveries are snapshots (spec/10_state.md R37) -/

theorem tick_with_drive (s : State) (S' : DriveRegs) : tick { s with drive := S' } = { tick s with drive := S' } := by
  rw [tick_eq, tick_eq]
  rfl

/-- A step that is a Tick does the same to a state with another register file. -/
theorem stepped_with_drive {s : State} (htick : ∀ x ∈ s.input.head?, x = .tick) (S' : DriveRegs) :
    stepped { s with drive := S' } = { stepped s with drive := S' } := by
  have hcases : s.input = [] ∨ ∃ rest, s.input = .tick :: rest := by
    cases hinput : s.input with
    | nil => exact .inl rfl
    | cons x rest => exact .inr ⟨rest, by rw [htick x (by simp [hinput])]⟩
  rw [stepped_eq_stepWith, stepped_eq_stepWith]
  obtain hinput | ⟨rest, hinput⟩ := hcases
  · rw [stepWith_of_input_nil hinput, stepWith_of_input_nil (s := { s with drive := S' }) hinput]
    exact tick_with_drive s S'
  · rw [stepWith_of_input_tick hinput, stepWith_of_input_tick (s := { s with drive := S' }) hinput]
    exact tick_with_drive { s with input := rest } S'

theorem iterate_stepped_with_drive (n : Nat) {s : State} (hticks : ∀ x ∈ s.input.take n, x = .tick) (S' : DriveRegs) :
    stepped^[n] { s with drive := S' } = { stepped^[n] s with drive := S' } := by
  induction n generalizing s with
  | zero => rfl
  | succ n ih =>
    have hhead : ∀ x ∈ s.input.head?, x = .tick := fun x hx => hticks x (mem_take_succ_of_mem_head? n hx)
    have htail : ∀ x ∈ (stepped s).input.take n, x = .tick := fun x hx =>
      hticks x (mem_take_succ_of_mem_take_tail (stepped_input s ▸ hx))
    rw [Function.iterate_succ_apply, Function.iterate_succ_apply, stepped_with_drive hhead, ih htail]

/-- Settles O43: a Tick reads no field of `S`, and neither do any number of them. -/
theorem deliveriesDoNotReadDriveState : Obligations.DeliveriesDoNotReadDriveState := by
  intro n s S' hticks
  exact ⟨_, run_eq_iterate n s, (run_eq_iterate n _).trans (by rw [iterate_stepped_with_drive n hticks S'])⟩

/-! ### STATUS_ENCODING and CAUSE_CODE reach only payloads (spec/00_scope.md R7) -/

/-- Packets alike but for the payload are due together, so the due heads and the rest of two queues stay alike. -/
theorem forall₂_takeWhile_dropWhile_due {q q' : List Packet} (h : List.Forall₂ SamePacketButPayload q q') :
    List.Forall₂ SamePacketButPayload (q.takeWhile due) (q'.takeWhile due) ∧
    List.Forall₂ SamePacketButPayload (q.dropWhile due) (q'.dropWhile due) := by
  induction h with
  | nil => exact ⟨.nil, .nil⟩
  | @cons p p' q q' hp hq ih =>
    obtain ⟨htake, hdrop⟩ := ih
    have hdue : due p' = due p := by rw [due, due, hp.cycles]
    rw [List.takeWhile_cons, List.takeWhile_cons, List.dropWhile_cons, List.dropWhile_cons, hdue]
    cases due p with
    | true => exact ⟨.cons hp htake, hdrop⟩
    | false => exact ⟨.nil, .cons hp hq⟩

theorem forall₂_countDown {q q' : List Packet} (h : List.Forall₂ SamePacketButPayload q q') :
    List.Forall₂ SamePacketButPayload (countDown q) (countDown q') := by
  cases h with
  | nil => exact .nil
  | cons hp hq => exact .cons ⟨hp.cause, by simp [hp.cycles], hp.command, hp.length⟩ hq

theorem forall₂_map_deliveryAt (t : Nat) {q q' : List Packet} (h : List.Forall₂ SamePacketButPayload q q') :
    List.Forall₂ SameDeliveryButPayload (q.map (deliveryAt t)) (q'.map (deliveryAt t)) := by
  rw [List.forall₂_map_left_iff, List.forall₂_map_right_iff]
  exact h.imp fun _ _ hp => ⟨rfl, hp.cause, hp.length⟩

section SameButPayloads

variable {s s' : State} (h : SameButPayloads s s')
include h

theorem SameButPayloads.withInput (rest : List Stimulus) :
    SameButPayloads { s with input := rest } { s' with input := rest } :=
  ⟨h.drive, h.queue, h.out, h.now, h.faults, rfl⟩

/-- Settling alike chains delivers alike heads at the same time. -/
theorem SameButPayloads.afterIssue {S T : DriveRegs} {chain chain' : List Packet} (hdrive : T = S)
    (hchain : List.Forall₂ SamePacketButPayload chain chain') :
    SameButPayloads (afterIssue s S chain) (afterIssue s' T chain') := by
  obtain ⟨htake, hdrop⟩ := forall₂_takeWhile_dropWhile_due hchain
  refine ⟨hdrive, hdrop, ?_, h.now, h.faults, h.input⟩
  rw [afterIssue_out, afterIssue_out, h.now]
  exact List.rel_append h.out (forall₂_map_deliveryAt s.now htake)

theorem SameButPayloads.tick : SameButPayloads (tick s) (tick s') := by
  rw [tick_eq, tick_eq]
  have hclock : SameButPayloads { s with now := s.now + 1 } { s' with now := s'.now + 1 } :=
    ⟨h.drive, h.queue, h.out, congrArg (· + 1) h.now, h.faults, h.input⟩
  exact hclock.afterIssue h.drive (forall₂_countDown h.queue)

theorem SameButPayloads.finishIssue {result result' : HandlerResult}
    (hanswer : SameAnswer (fun S T => T = S) (List.Forall₂ SamePacketButPayload) result result') :
    SameButPayloads (finishIssue s result) (finishIssue s' result') := by
  cases hanswer with
  | ok hdrive hchain =>
    rw [finishIssue_ok, finishIssue_ok]
    exact h.afterIssue hdrive hchain
  | error f =>
    rw [finishIssue_error, finishIssue_error]
    exact ⟨h.drive, h.queue, h.out, h.now, by simp [h.faults], h.input⟩

end SameButPayloads

/-- Whatever the status byte's layout, a handler answers alike packets. -/
theorem sameAnswer_executeWith {E E' : Encodings} (hopcode : E'.opcode = E.opcode) (i : Instr) (S : DriveRegs) :
    SameAnswer (fun S T => T = S) (List.Forall₂ SamePacketButPayload) (executeWith E i S) (executeWith E' i S) := by
  have hpkt : ∀ {cause bytes bytes' delay c}, bytes'.length = bytes.length →
      SamePacketButPayload (pkt E cause bytes delay c) (pkt E' cause bytes' delay c) :=
    fun hlength => ⟨rfl, rfl, congrFun hopcode _, hlength⟩
  cases i with
  | getTN => exact sameAnswer_handleGetTN hopcode rfl rfl fun _ => .cons (hpkt rfl) .nil
  | getID =>
    cases hdisc : discMounted S with
    | true =>
      rw [executeWith, executeWith, handleGetID_disc hdisc, handleGetID_disc hdisc]
      exact .ok rfl (.cons (hpkt rfl) (.cons (hpkt rfl) .nil))
    | false =>
      rw [executeWith, executeWith, handleGetID_noDisc hdisc, handleGetID_noDisc hdisc]
      exact .ok rfl (.cons (hpkt rfl) (.cons (hpkt rfl) .nil))
  | init | seekL | readN | pause => exact .ok rfl (.cons (hpkt rfl) (.cons (hpkt rfl) .nil))
  | _ => exact .ok rfl (.cons (hpkt rfl) .nil)

/-- Settles O47: a step delivers alike packets at the same times, and an Issue installs alike chains. -/
theorem statusEncodingReachesOnlyPayloads : Obligations.StatusEncodingReachesOnlyPayloads := by
  intro E E' s s' hopcode h
  refine stepWith_rel SameButPayloads.input (fun rest h => h.withInput rest) SameButPayloads.tick (fun {s s'} r h => ?_) h
  rw [h.drive]
  exact h.finishIssue (sameAnswer_issueResultWith hopcode (fun i => sameAnswer_executeWith hopcode i s.drive) r)

end Sys2Proof.Machine
